-- ==== Sys2Proof/Word.lean ====
section
/-! DEFINITION. The bit-vector types of the block: 32-bit registers and command words, 16-bit timing fields, bytes
of the frame buffer (00_scope.md R3, 10_state.md R22). -/

namespace Sys2Proof

/-- A register, a command word, or the data of a host access: 32 bits (00_scope.md R3). -/
abbrev Word := BitVec 32

/-- A 16-bit field: BAUDDIV.DIV, BRK_US.US, MAB_US.US, or a host byte offset. -/
abbrev Half := BitVec 16

/-- One byte of a frame (10_state.md R45). -/
abbrev Byte := BitVec 8

/-- The index of a byte of the frame buffer, 0 to 512 (10_state.md R45). -/
abbrev FrameIndex := Fin 513

end Sys2Proof
end

