-- ==== Sys2Proof/Syntax.lean ====
section
/-! DEFINITION. The commands of the block, one constructor per row of spec/opcode_table.json (30_encoding.md R102). -/

namespace Sys2Proof

/-- A command the host may write to CMD. The only immediate operand is G of BUILD_IND (30_encoding.md R104). -/
inductive Instr where
  /-- NOP, OP = 0x0 (41_transport.md R161). -/
  | nop
  /-- OPEN, OP = 0x1 (41_transport.md R162). -/
  | openPort
  /-- CLOSE, OP = 0x2 (41_transport.md R163). -/
  | closePort
  /-- BUILD_PROG, OP = 0x3 (40_packet_builder.md R131). -/
  | buildProg
  /-- BUILD_IND, OP = 0x4, with `green` the flag G (40_packet_builder.md R141). -/
  | buildInd (green : Bool)
  /-- SEND, OP = 0x5 (41_transport.md R164). -/
  | send
  deriving DecidableEq, Repr

end Sys2Proof
end

