-- ==== Sys2Proof/WellFormed.lean ====
section
/-! DEFINITION. What is well formed. A command's only operand is a Bool, so every term of `Instr` is well formed; what
can be ill formed is a command WORD, by one of the three tests of 30_encoding.md R101. -/

namespace Sys2Proof

/-- Every command with every operand is one the block has (30_encoding.md R102): the syntax has no ill-formed term. -/
def Instr.wellFormed : Instr → Bool
  | .nop => true
  | .openPort => true
  | .closePort => true
  | .buildProg => true
  | .buildInd _ => true
  | .send => true

/-- The three ways a command word is ill formed (R101, R103). -/
inductive IllFormed where
  /-- A bit of 7:4 or 31:9 is set (R100). -/
  | reservedBits
  /-- An opcode 6 to 15 (R102). -/
  | reservedOpcode
  /-- G = 1 with an opcode other than 4 (R100). -/
  | strayGreen
  deriving DecidableEq, Repr

end Sys2Proof
end

