-- ==== Sys2Proof/Decode.lean ====
section
/-! DEFINITION. The command word CMD32: decoder, encoder, and the host's table word (30_encoding.md R100 to R103). -/

namespace Sys2Proof

/-- OP, bits 3:0 of a command word (R100). -/
def opField (w : Word) : BitVec 4 := w.extractLsb' 0 4

/-- G, bit 8 of a command word (R100). -/
def greenField (w : Word) : Bool := w.getLsbD 8

/-- Bits 7:4 and 31:9, which must be 0 (R100, R101). -/
def reservedMask : Word := 0xFFFFFEF0#32

/-- What the decoder reads from a word: a command, or why there is none. -/
inductive Decoded where
  /-- The word is this command. -/
  | command (i : Instr)
  /-- The word is illegal (R103). -/
  | illegal (why : IllFormed)
  deriving DecidableEq, Repr

/-- R101, the tests in its order, then the opcode map of R102. -/
def decode (w : Word) : Decoded :=
  if w &&& reservedMask ≠ 0#32 then .illegal .reservedBits
  else if 5 < (opField w).toNat then .illegal .reservedOpcode
  else if greenField w = true ∧ (opField w).toNat ≠ 4 then .illegal .strayGreen
  else
    match (opField w).toNat with
    | 0 => .command .nop
    | 1 => .command .openPort
    | 2 => .command .closePort
    | 3 => .command .buildProg
    | 4 => .command (.buildInd (greenField w))
    | 5 => .command .send
    | _ => .illegal .reservedOpcode

/-- The opcode of a command (R102). -/
def opcodeOf : Instr → BitVec 4
  | .nop => 0x0#4
  | .openPort => 0x1#4
  | .closePort => 0x2#4
  | .buildProg => 0x3#4
  | .buildInd _ => 0x4#4
  | .send => 0x5#4

/-- The flag G of a command: 0 for every opcode but BUILD_IND (R100). -/
def greenOf : Instr → Bool
  | .nop => false
  | .openPort => false
  | .closePort => false
  | .buildProg => false
  | .buildInd green => green
  | .send => false

/-- The word of a command: OP in bits 3:0, G in bit 8, every other bit 0 (R100, R102). -/
def encode (i : Instr) : Word :=
  (opcodeOf i).setWidth 32 ||| (if greenOf i then 0x00000100#32 else 0#32)

/-- The command word that holds an opcode-table word of `nbits` bits, the bits above it 0 (R100: every command is one
32-bit word, so it has no byte order, 20_memory.md R74). -/
def commandWord (nbits w : Nat) : Word := BitVec.ofNat 32 (w % 2 ^ nbits)

/-- The command the decoder reads from an opcode-table word, none where it refuses. -/
def decodeTableWord (nbits w : Nat) : Option Instr :=
  match decode (commandWord nbits w) with
  | .command i => some i
  | .illegal _ => none

end Sys2Proof
end

