-- ==== Sys2Proof/Config.lean ====
section
/-! DEFINITION. What one build of the block fixes (00_scope.md R1, R2) and the free values (93_implementation_defined.md
U1). The values the spec leaves OPEN are opaque constants with no body: no proof can see one, so a claim that mentions
a parameter holds for every legal value of it (log 6). -/

namespace Sys2Proof

/-- The numeric build-time parameters of R1. US_DIV and BAUDDIV_RST are functions of F_BASE_HZ (P2). -/
structure Params where
  /-- `F_BASE_HZ`: the frequency of `clk` in hertz. -/
  fBaseHz : Nat
  /-- `PROG_LEN`: how many leading bytes of the programming packet come from the template. -/
  progLen : Nat
  /-- `OFF_SERIAL`: index of the first of the three serial-number bytes. -/
  offSerial : Nat
  /-- `OFF_ADDR`: index of the first of the two DMX-address bytes. -/
  offAddr : Nat
  /-- `OFF_CK1`: index of checksum byte 1. -/
  offCk1 : Nat
  /-- `OFF_CK2`: index of checksum byte 2. -/
  offCk2 : Nat
  deriving DecidableEq, Repr, Inhabited

/-- `US_DIV = ceil(F_BASE_HZ / 1000000)`: cycles of one microsecond tick (R1). The ceiling is written as the quotient plus
one where there is a remainder, a form the kernel finds stuck at once on an opaque frequency. -/
def Params.usDiv (p : Params) : Nat := p.fBaseHz / 1000000 + if p.fBaseHz % 1000000 = 0 then 0 else 1

/-- `BAUDDIV_RST = F_BASE_HZ div 250000`: the reset divisor (R1). -/
def Params.baudDivRst (p : Params) : Nat := p.fBaseHz / 250000

/-- The seven positions the fields of the programming packet occupy (R2, R130). -/
def Params.fieldBytes (p : Params) : List Nat :=
  [p.offSerial, p.offSerial + 1, p.offSerial + 2, p.offAddr, p.offAddr + 1, p.offCk1, p.offCk2]

/-- R2: the constraints a legal parameter set meets. The four fields are pairwise disjoint and lie inside
`[2, PROG_LEN - 1]`. -/
abbrev Params.Legal (p : Params) : Prop :=
  250000 ≤ p.fBaseHz ∧ 1 ≤ p.baudDivRst ∧ p.baudDivRst ≤ 65535 ∧ 1 ≤ p.usDiv ∧
    2 ≤ p.progLen ∧ p.progLen ≤ 513 ∧
    (∀ k ∈ p.fieldBytes, 2 ≤ k ∧ k < p.progLen) ∧ p.fieldBytes.Nodup

/-- A legal parameter set: the common setting of 95_test_vectors.md (F_BASE_HZ = 4000000) with a layout of our own.
It shows that R2 can be met, and the tests use it; it is no choice of the block's parameters. -/
def Params.sample : Params :=
  { fBaseHz := 4000000, progLen := 36, offSerial := 2, offAddr := 5, offCk1 := 7, offCk2 := 8 }

/-- The parameter set of the build, uninterpreted. -/
opaque Config.chosen : Params

/-- The parameters the machine uses: the uninterpreted set where it is legal (R2 says that of every build). The other
branch only keeps the constant legal whatever the uninterpreted set is: no proof can tell which branch holds, and
every legal set is possible (DESIGN CHOICE, safe, log 6). -/
def Config.params : Params := if Config.chosen.Legal then Config.chosen else Params.sample

/-- `PROG_TEMPLATE`, uninterpreted: byte `i` of the template ROM (R1, R48). Only `i < PROG_LEN` is ever used (R130). -/
opaque Config.progTemplate : Nat → Byte

/-- The free value of 93_implementation_defined.md U1: what byte `i` of the frame buffer holds after reset draw `n`
(10_state.md R47, log 3). -/
opaque Config.resetByte : Nat → Nat → Byte

/-- `US_DIV` of the build. -/
def Config.usDiv : Nat := Config.params.usDiv

/-- `BAUDDIV_RST` of the build. -/
def Config.baudDivRst : Nat := Config.params.baudDivRst

end Sys2Proof
end

