-- ==== Sys2Proof/Machine/Memory.lean ====
section
/-! DEFINITION. The frame buffer as a memory: 513 bytes (10_state.md R45), held as a list of cells in one canonical
form. -/

namespace Sys2Proof.Machine

/-- The frame buffer's cells, by rising index; a byte that equals `Memory.unlisted` is not listed. -/
abbrev Memory := List Host.Cell

/-- What an index with no cell reads as. This is the list's representation of a byte 0x00 and no reset value: a reset
gives every index a free value (R47), which the list then holds (DESIGN CHOICE, safe, log 5). -/
def Memory.unlisted : Byte := 0x00#8

/-- The canonical form: indices strictly rising, each below 513, no cell equal to what an unlisted index reads as. -/
def Memory.wf (m : Memory) : Bool :=
  decide (m.Pairwise (fun c d => c.1 < d.1)) && m.all (fun c => decide (c.1 < 513) && decide (c.2 ≠ Memory.unlisted))

/-- The byte at a cell index. -/
def Memory.lookup : Memory → Nat → Byte
  | [], _ => Memory.unlisted
  | (k, b) :: rest, i => if k = i then b else Memory.lookup rest i

/-- `fb[i]` (R45). -/
def Memory.read (m : Memory) (i : FrameIndex) : Byte := Memory.lookup m i.val

/-- Put a cell where the rising order has its place, in a list that holds no cell of that index. -/
def Memory.insert : Memory → Nat → Byte → Memory
  | [], i, v => [(i, v)]
  | (k, b) :: rest, i, v => if i < k then (i, v) :: (k, b) :: rest else (k, b) :: Memory.insert rest i v

/-- `fb[i] <- v` (R46), keeping the canonical form. -/
def Memory.write (m : Memory) (i : FrameIndex) (v : Byte) : Memory :=
  let others := m.filter (fun c => decide (c.1 ≠ i.val))
  if v = Memory.unlisted then others else Memory.insert others i.val v

/-- The cell of index `i` in a buffer whose bytes are `f`, where it has one. -/
def Memory.cellOf (f : Nat → Byte) (i : Nat) : Option Host.Cell :=
  if f i = Memory.unlisted then none else some (i, f i)

/-- `for i in 0..512: fb[i] <- f i`: the whole buffer at once (20_memory.md R75). -/
def Memory.ofBytes (f : Nat → Byte) : Memory := (List.range' 0 513).filterMap (Memory.cellOf f)

end Sys2Proof.Machine
end

