-- ==== Sys2Proof/Machine/State.lean ====
section
/-! DEFINITION. Everything the spec gives the block (10_state.md), the host's pending port values, and the state after
reset (10_state.md R50). -/

namespace Sys2Proof.Machine

/-- PHASE: the segment of the frame the serializer is in (10_state.md R30, R41). -/
inductive Phase where
  /-- 0: no frame; the line is at mark. -/
  | idle
  /-- 1: the break. -/
  | brk
  /-- 2: the mark-after-break. -/
  | mab
  /-- 3: the 513 slots. -/
  | data
  deriving DecidableEq, Repr

/-- The error conditions; each stands for one sticky bit of ERR (10_state.md R34). -/
inductive ErrBit where
  /-- Bit 0: OPEN while the port is open (60_exceptions.md R222). -/
  | devOpen
  /-- Bit 1: OPEN while BAUDDIV.DIV = 0 (R223). -/
  | baud
  /-- Bit 2: SEND while closed; CLOSE while closed or closing (R224). -/
  | notOpen
  /-- Bit 3: a command or a locked write while busy (R225). -/
  | busy
  /-- Bit 4: BUILD_IND with ADDR outside [1, 509] (R226). -/
  | range
  /-- Bit 5: an ill-formed command word (R227). -/
  | badCmd
  /-- Bit 6: an access that is not admitted (R228). -/
  | bus
  /-- Bit 7: a write to BAUDDIV while the port is open (R229). -/
  | locked
  deriving DecidableEq, Repr

/-- The mapped words of the host register space (10_state.md R22, 20_memory.md R71). -/
inductive Reg where
  /-- 0x0000, read/write. -/
  | ctrl
  /-- 0x0004, read-only. -/
  | status
  /-- 0x0008, read, write-1-to-clear. -/
  | err
  /-- 0x000C, write-only, reads 0. -/
  | cmd
  /-- 0x0010, read/write, locked while open. -/
  | baudDiv
  /-- 0x0014, read/write, write-any-read-legal. -/
  | brkUs
  /-- 0x0018, read/write, write-any-read-legal. -/
  | mabUs
  /-- 0x001C, read/write. -/
  | serial
  /-- 0x0020, read/write. -/
  | addr
  /-- 0x0024, read-only. -/
  | frameCnt
  /-- 0x0028, read-only, hardwired. -/
  | format
  /-- 0x002C, read-only. -/
  | cksum
  /-- 0x1000 + 4*i, read/write, locked while busy. -/
  | frame (i : FrameIndex)
  deriving DecidableEq, Repr

/-- The input ports in one cycle (10_state.md R20, 30_encoding.md R105). -/
structure Ports where
  /-- `rst`: synchronous reset, active high. -/
  rst : Bool
  /-- `bus_req`: the host performs an access in this cycle. -/
  req : Bool
  /-- `bus_we`: the access is a write. -/
  we : Bool
  /-- `bus_addr`: the byte offset. -/
  addr : Half
  /-- `bus_size`: 0 is 1 byte, 1 is 2 bytes, 2 is 4 bytes, 3 is reserved. -/
  size : BitVec 2
  /-- `bus_wdata`: the write data, ignored for a read. -/
  wdata : Word
  deriving DecidableEq, Repr

/-- A cycle with no reset and no access. -/
def Ports.idle : Ports := { rst := false, req := false, we := false, addr := 0, size := 0, wdata := 0 }

/-- The state of the block (10_state.md R24 to R48), and two fields of the model's own at the end. -/
structure State where
  /-- CTRL.RTS (R24). -/
  rts : Bool
  /-- STATUS.OPEN (R31). -/
  isOpen : Bool
  /-- STATUS.CLOSING (R30). -/
  closing : Bool
  /-- PHASE (R41). -/
  phase : Phase
  /-- REM, hidden: cycles left in the current segment or bit, counting the current cycle (R41). -/
  rem : Nat
  /-- BIT, 0 to 10 (R41, log 8). -/
  bit : Fin 11
  /-- BYTE, 0 to 512 (R41, log 8). -/
  byte : FrameIndex
  /-- ERR[7:0], sticky (R34). -/
  err : BitVec 8
  /-- BAUDDIV.DIV (R37). -/
  baudDiv : Half
  /-- BRK_US.US (R38). -/
  brkUs : Half
  /-- MAB_US.US (R39). -/
  mabUs : Half
  /-- SERIAL.VAL (R40). -/
  serial : Word
  /-- ADDR.VAL (R40). -/
  addr : Word
  /-- FRAMECNT.VAL (R42). -/
  frameCnt : Word
  /-- CKSUM.CK1 (R44). -/
  ck1 : Byte
  /-- CKSUM.CK2 (R44). -/
  ck2 : Byte
  /-- The frame buffer (R45). -/
  fb : Memory
  /-- `bus_rdata` in this cycle (20_memory.md R73, log 10). -/
  busRdata : Word
  /-- The model's own: the input ports in the coming cycles, the current one first; idle beyond its end (log 1). -/
  hostQueue : List Ports
  /-- The model's own: how many times the frame buffer's reset content has been drawn (log 3). -/
  draws : Nat
  deriving DecidableEq, Repr

/-- Why the machine stops: never. The block has no fault and no stuck case (93_implementation_defined.md section 5):
every access in every state has a defined next state, and an error is a bit of ERR (log 11). -/
inductive Fault where
  deriving DecidableEq, Repr

/-- Why an instruction has no meaning. -/
inductive Refusal where
  /-- Raised by an arm of `exec` for a command the model does not cover. No arm raises it. Safe: the machine stops
  where the hardware goes on. -/
  | notModelled (mnemonic : String)
  deriving DecidableEq, Repr

/-- The state after a reset edge that makes reset draw `n` of the frame buffer (R50, 70_reset_and_hazards.md R250,
U1), with the host's later port values in `queue`. -/
def State.afterReset (n : Nat) (queue : List Ports) : State :=
  { rts := false
    isOpen := false
    closing := false
    phase := .idle
    rem := 0
    bit := 0
    byte := 0
    err := 0#8
    baudDiv := BitVec.ofNat 16 Config.baudDivRst
    brkUs := 200#16
    mabUs := 20#16
    serial := 0#32
    addr := 0#32
    frameCnt := 0#32
    ck1 := 0#8
    ck2 := 0#8
    fb := Memory.ofBytes (Config.resetByte n)
    busRdata := 0#32
    hostQueue := queue
    draws := n + 1 }

/-- The block right after its first reset edge, with no host access pending (R50, R252, log 12). -/
def State.reset : State := State.afterReset 0 []

end Sys2Proof.Machine
end

