-- ==== Sys2Proof/Machine/Flags.lean ====
section
/-! DEFINITION. The status and error flags: how STATUS, ERR, FORMAT, CTRL and CKSUM are made of their fields
(10_state.md R24, R30, R32, R34, R43, R44). -/

namespace Sys2Proof.Machine

/-- The encoding of PHASE in STATUS (R30). -/
def phaseCode : Phase → BitVec 2
  | .idle => 0#2
  | .brk => 1#2
  | .mab => 2#2
  | .data => 3#2

/-- STATUS.BUSY: `PHASE != IDLE`, not separate storage (R32). -/
def busy (s : State) : Bool := decide (s.phase ≠ .idle)

/-- One flag at bit `k` of a register. -/
def flagAt (k : Nat) (b : Bool) : Word := if b then 1#32 <<< k else 0#32

/-- STATUS (R30): OPEN at 0, BUSY at 1, CLOSING at 2, PHASE at 5:4, BIT at 15:12, BYTE at 25:16, every other bit 0. -/
def statusWord (s : State) : Word :=
  flagAt 0 s.isOpen ||| flagAt 1 (busy s) ||| flagAt 2 s.closing ||| ((phaseCode s.phase).setWidth 32 <<< 4) |||
    (BitVec.ofNat 32 s.bit.val <<< 12) ||| (BitVec.ofNat 32 s.byte.val <<< 16)

/-- CTRL: RTS at bit 0 (R24). -/
def ctrlWord (s : State) : Word := flagAt 0 s.rts

/-- FORMAT: hardwired 8N2, least significant bit first (R43). -/
def formatWord : Word := 0x00000088#32

/-- CKSUM: CK1 at 7:0, CK2 at 15:8 (R44). -/
def cksumWord (s : State) : Word := s.ck1.setWidth 32 ||| (s.ck2.setWidth 32 <<< 8)

/-- The code of an error is its ERR bit number (R34, 60_exceptions.md section 2). -/
def errCode : ErrBit → Nat
  | .devOpen => 0
  | .baud => 1
  | .notOpen => 2
  | .busy => 3
  | .range => 4
  | .badCmd => 5
  | .bus => 6
  | .locked => 7

/-- ERR with only the bit of `e` set. -/
def errMask (e : ErrBit) : BitVec 8 := 1#8 <<< errCode e

/-- `rts`: the output equals CTRL.RTS in every cycle (R24). -/
def rtsOut (s : State) : Bool := s.rts

end Sys2Proof.Machine
end

