-- ==== Sys2Proof/Machine/Operands.lean ====
section
/-! DEFINITION. The operands of the commands and of the register writes: register values read as numbers, timer reload
values, and the legal value a write-any-read-legal field stores (30_encoding.md R104, 10_state.md R37 to R40). -/

namespace Sys2Proof.Machine

/-- SERIAL.VAL as an unsigned number (10_state.md R40). -/
def serialNum (s : State) : Nat := s.serial.toNat

/-- ADDR.VAL as an unsigned number, all 32 bits (10_state.md R40). -/
def addrNum (s : State) : Nat := s.addr.toNat

/-- The break in cycles: `BRK_US.US * US_DIV` (42_serializer.md R182). -/
def breakCycles (s : State) : Nat := s.brkUs.toNat * Config.usDiv

/-- The mark-after-break in cycles: `MAB_US.US * US_DIV` (42_serializer.md R183). -/
def mabCycles (s : State) : Nat := s.mabUs.toNat * Config.usDiv

/-- One bit on the wire in cycles: `BAUDDIV.DIV` (42_serializer.md R184). -/
def bitCycles (s : State) : Nat := s.baudDiv.toNat

/-- Bits 15:0 of a register's write data. -/
def lowHalf (w : Word) : Half := w.extractLsb' 0 16

/-- `max(wdata[15:0], floor)` (10_state.md R38, R39). -/
def atLeast (floor : Half) (w : Word) : Half := if lowHalf w < floor then floor else lowHalf w

/-- The minimum break in microsecond ticks (R38). -/
def brkFloor : Half := 176#16

/-- The minimum mark-after-break in microsecond ticks (R39). -/
def mabFloor : Half := 8#16

end Sys2Proof.Machine
end

