-- ==== Sys2Proof/Machine/Ops.lean ====
section
/-! DEFINITION. The shared operations: raising an error and clearing one (the block's only form of an exception,
60_exceptions.md R221, R233, R234), the busy interlock, and the named updates of State. -/

namespace Sys2Proof.Machine

/-- `raise Err(e)`: set the bit; the access that raised it has no other effect (60_exceptions.md R221). There is no trap
entry: nothing is saved and control goes nowhere (R233). -/
def raise (e : ErrBit) (s : State) : State := { s with err := s.err ||| errMask e }

/-- The counterpart of a return: the host clears each bit it writes as 1 and leaves the others (10_state.md R35,
60_exceptions.md R234). -/
def clearErr (mask : BitVec 8) (s : State) : State := { s with err := s.err &&& ~~~mask }

/-- The busy interlock: refused with Err(BUSY) while a frame is being sent, neither stalled nor queued
(70_reset_and_hazards.md R254). -/
def unlessBusy (act : State → State) (s : State) : State := if busy s then raise .busy s else act s

/-- Load the sequencing fields (10_state.md R41). -/
def loadSegment (p : Phase) (cycles : Nat) (bit : Fin 11) (byte : FrameIndex) (s : State) : State :=
  { s with phase := p, rem := cycles, bit := bit, byte := byte }

/-- Replace the whole frame buffer at one edge (20_memory.md R75). -/
def putFrame (bytes : Nat → Byte) (s : State) : State := { s with fb := Memory.ofBytes bytes }

/-- CKSUM.CK1 and CKSUM.CK2 (10_state.md R44). -/
def putChecksum (c1 c2 : Byte) (s : State) : State := { s with ck1 := c1, ck2 := c2 }

/-- The port values of the current cycle: the head of the host's queue, idle where the queue is empty (log 1). -/
def currentPorts (s : State) : Ports := s.hostQueue.headD Ports.idle

/-- Leave the current cycle: the ports move on, and `bus_rdata` is 0 unless an admitted read sets it (20_memory.md
R73). -/
def nextCycle (s : State) : State := { s with hostQueue := s.hostQueue.tail, busRdata := 0#32 }

/-- A rising edge with `rst = 1`: every piece of state takes its reset value whatever the state and the access
(70_reset_and_hazards.md R250); the frame buffer is drawn again (95_test_vectors.md H2, log 4). -/
def resetEdge (s : State) : State := State.afterReset s.draws s.hostQueue

end Sys2Proof.Machine
end

