-- ==== Sys2Proof/Machine/Bus.lean ====
section
/-! DEFINITION. The host bus: the address map, admission, the value a read returns, and the write rule of every register
but CMD (20_memory.md R70 to R76, 10_state.md R22 to R46). -/

namespace Sys2Proof.Machine

/-- The register of word `k` of the low window, 0x0000 to 0x002F (10_state.md R22). -/
def lowReg (k : Nat) : Option Reg :=
  match k with
  | 0 => some .ctrl
  | 1 => some .status
  | 2 => some .err
  | 3 => some .cmd
  | 4 => some .baudDiv
  | 5 => some .brkUs
  | 6 => some .mabUs
  | 7 => some .serial
  | 8 => some .addr
  | 9 => some .frameCnt
  | 10 => some .format
  | 11 => some .cksum
  | _ => none

/-- The mapped word that holds byte offset `off`, none where the offset is unmapped (R71). -/
def wordAt (off : Half) : Option Reg :=
  if off.toNat < 0x1000 then lowReg (off.toNat / 4)
  else if h : off.toNat < 0x1804 then some (.frame ⟨(off.toNat - 0x1000) / 4, by omega⟩)
  else none

/-- The word an access reaches when it is admitted: 4 bytes, 4-aligned, mapped (R72). -/
def admitted (p : Ports) : Option Reg :=
  if p.size = 2#2 ∧ p.addr.toNat % 4 = 0 then wordAt p.addr else none

/-- The value a read of a register returns (10_state.md R23 to R46). -/
def readReg (r : Reg) (s : State) : Word :=
  match r with
  | .ctrl => ctrlWord s
  | .status => statusWord s
  | .err => s.err.setWidth 32
  | .cmd => 0#32
  | .baudDiv => s.baudDiv.setWidth 32
  | .brkUs => s.brkUs.setWidth 32
  | .mabUs => s.mabUs.setWidth 32
  | .serial => s.serial
  | .addr => s.addr
  | .frameCnt => s.frameCnt
  | .format => formatWord
  | .cksum => cksumWord s
  | .frame i => (s.fb.read i).setWidth 32

/-- An admitted read: its data is on `bus_rdata` in the next cycle (R73). -/
def hostRead (r : Reg) (s : State) : State := { s with busRdata := readReg r s }

/-- `CTRL.RTS <- wdata[0]`, busy or not (10_state.md R24). -/
def writeCtrl (w : Word) (s : State) : State := { s with rts := w.getLsbD 0 }

/-- ERR: write 1 to clear, busy or not (10_state.md R35). -/
def writeErr (w : Word) (s : State) : State := clearErr (w.extractLsb' 0 8) s

/-- BAUDDIV: BUSY before LOCKED, else any value is stored, 0 included (10_state.md R37). -/
def writeBaudDiv (w : Word) (s : State) : State :=
  unlessBusy (fun t => if t.isOpen then raise .locked t else { t with baudDiv := lowHalf w }) s

/-- BRK_US: the floor 176 is stored for anything below it (10_state.md R38). -/
def writeBrkUs (w : Word) (s : State) : State := unlessBusy (fun t => { t with brkUs := atLeast brkFloor w }) s

/-- MAB_US: the floor 8 is stored for anything below it (10_state.md R39). -/
def writeMabUs (w : Word) (s : State) : State := unlessBusy (fun t => { t with mabUs := atLeast mabFloor w }) s

/-- SERIAL: all 32 bits, busy or not (10_state.md R40). -/
def writeSerial (w : Word) (s : State) : State := { s with serial := w }

/-- ADDR: all 32 bits, busy or not (10_state.md R40). -/
def writeAddr (w : Word) (s : State) : State := { s with addr := w }

/-- FB[i]: `fb[i] <- wdata[7:0]` (10_state.md R46). -/
def writeFrame (i : FrameIndex) (w : Word) (s : State) : State :=
  unlessBusy (fun t => { t with fb := t.fb.write i (w.extractLsb' 0 8) }) s

/-- A write to a read-only register is ignored and raises no error (10_state.md R23). -/
def writeReadOnly (s : State) : State := s

end Sys2Proof.Machine
end

