-- ==== Sys2Proof/Machine/Builder.lean ====
section
/-! DEFINITION. The packet builder: checksum arithmetic, the programming packet, the indicator frame, and the commands
BUILD_PROG and BUILD_IND (40_packet_builder.md). -/

namespace Sys2Proof.Machine

/-- `x - 256 * floor(x / 256)`, in [0, 255] for negative `x` too (R120); `/` on Int rounds toward minus infinity for a
positive divisor. -/
def mod256 (x : Int) : Int := x - 256 * (x / 256)

/-- `s`, the delta of the serial number from the reference sample (R121). -/
def serialDelta (serial : Word) : Int := (serial.toNat : Int) - 3080000

/-- `a`, the delta of the DMX address from the reference sample (R121). -/
def addrDelta (addr : Word) : Int := (addr.toNat : Int) - 1

/-- The correction term (R121); `tdiv` truncates toward zero. -/
def correction (s a : Int) : Int :=
  (if 191 < s then (if 255 < s - 192 then (s - 192).tdiv 256 + 2 else 2) else 0) + (if 255 ≤ a then 1 else 0)

/-- Checksum byte 1 as a number (R122). -/
def check1 (s a : Int) : Int := mod256 (mod256 (mod256 (s + a) + 0x46) + correction s a)

/-- Checksum byte 2 as a number (R123). -/
def check2 (s a : Int) : Int := mod256 (mod256 (mod256 (s + a) * 2 + 0xCA) + correction s a * 2)

/-- `ck1` of (SERIAL.VAL, ADDR.VAL) (R122, R126). -/
def checksum1 (serial addr : Word) : Byte := BitVec.ofInt 8 (check1 (serialDelta serial) (addrDelta addr))

/-- `ck2` of (SERIAL.VAL, ADDR.VAL) (R123, R126). -/
def checksum2 (serial addr : Word) : Byte := BitVec.ofInt 8 (check2 (serialDelta serial) (addrDelta addr))

/-- `f[k] := v` in a frame under construction. -/
def setByte (k : Nat) (v : Byte) (f : Nat → Byte) : Nat → Byte := fun i => if i = k then v else f i

/-- `ProgPacket(serial, addr)` of a build with parameters `p` and template `template` (R130), its assignments in the
rule's order. -/
def progPacketOf (p : Params) (template : Nat → Byte) (serial addr : Word) : Nat → Byte :=
  setByte p.offCk2 (checksum2 serial addr) <|
  setByte p.offCk1 (checksum1 serial addr) <|
  setByte (p.offAddr + 1) (addr.extractLsb' 0 8) <|
  setByte p.offAddr (addr.extractLsb' 8 8) <|
  setByte (p.offSerial + 2) (serial.extractLsb' 0 8) <|
  setByte (p.offSerial + 1) (serial.extractLsb' 8 8) <|
  setByte p.offSerial (serial.extractLsb' 16 8) <|
  fun i => if i < p.progLen then template i else 0x00#8

/-- `ProgPacket(serial, addr)` of this build (R130). -/
def progPacket (serial addr : Word) : Nat → Byte := progPacketOf Config.params Config.progTemplate serial addr

/-- The red fill: 0xFF at every index that is 1 modulo 3, from 0x00 bytes (R140). -/
def redFill : Nat → Byte := fun i => if 1 ≤ i ∧ i % 3 = 1 then 0xFF#8 else 0x00#8

/-- `Indicator(A, g)` (R140), its assignments in the rule's order. -/
def indicator (a : Nat) (green : Bool) : Nat → Byte :=
  let dark := setByte (a + 2) 0x00#8 <| setByte (a + 1) 0x00#8 <| setByte a 0x00#8 redFill
  if green then setByte (a + 1) 0xFF#8 dark else dark

/-- The effect of an accepted BUILD_PROG (R131). -/
def buildProgFrame (s : State) : State :=
  putChecksum (checksum1 s.serial s.addr) (checksum2 s.serial s.addr) (putFrame (progPacket s.serial s.addr) s)

/-- The effect of BUILD_IND when the serializer is idle (R141): the range check uses all 32 bits of ADDR. -/
def buildIndFrame (green : Bool) (s : State) : State :=
  if addrNum s < 1 ∨ 509 < addrNum s then raise .range s else putFrame (indicator (addrNum s) green) s

/-- BUILD_PROG (R131): refused with Err(BUSY) while busy (30_encoding.md R101), else it builds. -/
def execBuildProg (s : State) : Host.Outcome State Fault Refusal := .next (unlessBusy buildProgFrame s)

/-- BUILD_IND (R141): refused with Err(BUSY) while busy (30_encoding.md R101), then with Err(RANGE), else it builds. -/
def execBuildInd (green : Bool) (s : State) : Host.Outcome State Fault Refusal :=
  .next (unlessBusy (buildIndFrame green) s)

end Sys2Proof.Machine
end

