-- ==== Sys2Proof/Machine/Transport.lean ====
section
/-! DEFINITION. The transport commands NOP, OPEN, CLOSE and SEND (41_transport.md R161 to R164). -/

namespace Sys2Proof.Machine

/-- The effect of OPEN when the serializer is idle (R162): DEVOPEN before BAUD, else the port opens and RTS is
deasserted. -/
def openIdle (s : State) : State :=
  if s.isOpen then raise .devOpen s
  else if s.baudDiv = 0#16 then raise .baud s
  else { s with isOpen := true, rts := false }

/-- The effect of CLOSE, busy or not (R163): while busy the close is deferred to the end of the frame. -/
def closeAny (s : State) : State :=
  if s.isOpen = false ∨ s.closing = true then raise .notOpen s
  else if busy s then { s with closing := true }
  else { s with isOpen := false }

/-- The effect of SEND when the serializer is idle (R164): the break starts in the next cycle. -/
def sendIdle (s : State) : State :=
  if s.isOpen then loadSegment .brk (breakCycles s) 0 0 s else raise .notOpen s

/-- NOP (R161): no effect and no error, busy or not. -/
def execNop (s : State) : Host.Outcome State Fault Refusal := .next s

/-- OPEN (R162), refused with Err(BUSY) while busy (30_encoding.md R101). -/
def execOpen (s : State) : Host.Outcome State Fault Refusal := .next (unlessBusy openIdle s)

/-- CLOSE (R163): the busy test of 30_encoding.md R101 passes it over. -/
def execClose (s : State) : Host.Outcome State Fault Refusal := .next (closeAny s)

/-- SEND (R164), refused with Err(BUSY) while busy (30_encoding.md R101). -/
def execSend (s : State) : Host.Outcome State Fault Refusal := .next (unlessBusy sendIdle s)

end Sys2Proof.Machine
end

