-- ==== Sys2Proof/Machine/Dispatch.lean ====
section
/-! DEFINITION. One arm per command (30_encoding.md R101, R102). -/

namespace Sys2Proof.Machine

-- The commands of 30_encoding.md R102, each with its rule's meaning.
def exec (i : Instr) (s : State) : Host.Outcome State Fault Refusal :=
  match i with
  | .nop => Sys2Proof.Machine.execNop s
  | .openPort => Sys2Proof.Machine.execOpen s
  | .closePort => Sys2Proof.Machine.execClose s
  | .buildProg => Sys2Proof.Machine.execBuildProg s
  | .buildInd green => Sys2Proof.Machine.execBuildInd green s
  | .send => Sys2Proof.Machine.execSend s

end Sys2Proof.Machine
end

