-- ==== Sys2Proof/Machine/Serializer.lean ====
section
/-! DEFINITION. The serializer: the tick of one clock edge and the level of the line (42_serializer.md R181 to R186). -/

namespace Sys2Proof.Machine

/-- Level `p` of the slot that carries `b` (30_encoding.md R106). The start level, the stop level and the order of the
data bits are the spec's general knowledge (G1, G2, log 9). -/
def slotLevel (b : Byte) (p : Nat) : Bool :=
  if p = 0 then false else if p ≤ 8 then b.getLsbD (p - 1) else true

/-- `tx`: the level of the line (R185); `true` is mark, `false` is space. -/
def line (s : State) : Bool :=
  match s.phase with
  | .idle => true
  | .brk => false
  | .mab => true
  | .data => slotLevel (s.fb.read s.byte) s.bit.val

/-- A deferred close takes effect (R186). -/
def finishClose (s : State) : State := if s.closing then { s with closing := false, isOpen := false } else s

/-- The end of a frame (R186). -/
def endFrame (s : State) : State :=
  finishClose { loadSegment .idle 0 0 0 s with frameCnt := s.frameCnt + 1#32 }

/-- The last cycle of a bit in DATA: the next bit, the next slot, or the end of the frame (R184). -/
def nextBit (s : State) : State :=
  if hb : s.bit.val < 10 then loadSegment .data (bitCycles s) ⟨s.bit.val + 1, by omega⟩ s.byte s
  else if hy : s.byte.val < 512 then loadSegment .data (bitCycles s) 0 ⟨s.byte.val + 1, by omega⟩ s
  else endFrame s

/-- The last cycle of a segment or bit: BREAK goes to MAB (R182), MAB to the first slot (R183). -/
def nextSegment (s : State) : State :=
  match s.phase with
  | .idle => s
  | .brk => loadSegment .mab (mabCycles s) s.bit s.byte s
  | .mab => loadSegment .data (bitCycles s) 0 0 s
  | .data => nextBit s

/-- REM counts down, and its last cycle moves on (R182 to R184). -/
def countDown (s : State) : State := if 1 < s.rem then { s with rem := s.rem - 1 } else nextSegment s

/-- `Tick` (R180): nothing in IDLE (R181), else the timer of the phase. -/
def tick (s : State) : State := if busy s then countDown s else s

end Sys2Proof.Machine
end

