-- ==== Sys2Proof/Machine/Access.lean ====
section
/-! DEFINITION. The host access of a cycle, applied to the ticked state (42_serializer.md R180): admission, then the
register's rule, and for a write to CMD the decoder and the command (30_encoding.md R101). -/

namespace Sys2Proof.Machine

/-- A write of `w` to CMD (30_encoding.md R101): an illegal word raises Err(BADCMD), before any other test. -/
def command (w : Word) (s : State) : Host.Outcome State Fault Refusal :=
  match decode w with
  | .command i => exec i s
  | .illegal _ => .next (raise .badCmd s)

/-- An admitted write, by the register's rule (10_state.md R23 to R46). -/
def hostWrite (r : Reg) (w : Word) (s : State) : Host.Outcome State Fault Refusal :=
  match r with
  | .ctrl => .next (writeCtrl w s)
  | .status => .next (writeReadOnly s)
  | .err => .next (writeErr w s)
  | .cmd => command w s
  | .baudDiv => .next (writeBaudDiv w s)
  | .brkUs => .next (writeBrkUs w s)
  | .mabUs => .next (writeMabUs w s)
  | .serial => .next (writeSerial w s)
  | .addr => .next (writeAddr w s)
  | .frameCnt => .next (writeReadOnly s)
  | .format => .next (writeReadOnly s)
  | .cksum => .next (writeReadOnly s)
  | .frame i => .next (writeFrame i w s)

/-- An admitted access (20_memory.md R70). -/
def admittedAccess (p : Ports) (r : Reg) (s : State) : Host.Outcome State Fault Refusal :=
  if p.we then hostWrite r p.wdata s else .next (hostRead r s)

/-- `Access` (42_serializer.md R180): nothing with `bus_req = 0`; an access that is not admitted raises Err(BUS), and as a
read returns 0 (20_memory.md R72). -/
def access (p : Ports) (s : State) : Host.Outcome State Fault Refusal :=
  if p.req then
    match admitted p with
    | some r => admittedAccess p r s
    | none => .next (raise .bus s)
  else .next s

/-- The offset of CMD (10_state.md R22). -/
def cmdOffset : Half := 0x000C#16

/-- The port values of a cycle in which the host writes `w` to CMD, with no reset (30_encoding.md R105). -/
def commandWrite (w : Word) : Ports :=
  { rst := false, req := true, we := true, addr := cmdOffset, size := 2#2, wdata := w }

/-- One clock cycle with the port values `p` (42_serializer.md R180): reset, or the tick and then the access. -/
def cycle (p : Ports) (s : State) : Host.Outcome State Fault Refusal :=
  if p.rst then .next (resetEdge s) else access p (tick s)

end Sys2Proof.Machine
end

