-- ==== Sys2Proof/Machine/Step.lean ====
section
/-! DEFINITION. One step is one rising edge of `clk` (10_state.md R21, 42_serializer.md R180). -/

namespace Sys2Proof.Machine

/-- One clock cycle: the ports of the current cycle are taken from the host's queue and applied (R180). -/
def step (s : State) : Host.Outcome State Fault Refusal := cycle (currentPorts s) (nextCycle s)

/-- `s` with the current cycle's ports set to a write of an opcode-table word to CMD, so that the next step decodes and
performs it (log 2). The later cycles' ports stay. -/
def State.withFetchWord (s : State) (nbits w : Nat) : State :=
  { s with hostQueue := commandWrite (commandWord nbits w) :: s.hostQueue.tail }

end Sys2Proof.Machine
end

