-- ==== Sys2Proof/Safety.lean ====
section
/-! DEFINITION. The terms claims use: runs of clock cycles, the invariants of 10_state.md R33 and of the timer, and what a
host does in a cycle. -/

namespace Sys2Proof.Machine

/-- `k` clock cycles lead from `s` to `t`. -/
def Runs : Nat → State → State → Prop
  | 0, s, t => s = t
  | k + 1, s, t => ∃ u, step s = .next u ∧ Runs k u t

/-- The invariants (a) to (f) of 10_state.md R33. -/
structure StatusInv (s : State) : Prop where
  /-- (a) `BUSY = 1` implies `OPEN = 1`. -/
  busy_open : busy s = true → s.isOpen = true
  /-- (b) `CLOSING = 1` implies `BUSY = 1`. -/
  closing_busy : s.closing = true → busy s = true
  /-- (c) `OPEN = 1` implies `BAUDDIV.DIV != 0`. -/
  open_divisor : s.isOpen = true → s.baudDiv ≠ 0#16
  /-- (d) `BRK_US.US >= 176`. -/
  brk_floor : 176 ≤ s.brkUs.toNat
  /-- (d) `MAB_US.US >= 8`. -/
  mab_floor : 8 ≤ s.mabUs.toNat
  /-- (e) `BIT <= 10`. -/
  bit_le : s.bit.val ≤ 10
  /-- (e) `BYTE <= 512`. -/
  byte_le : s.byte.val ≤ 512
  /-- (f) `PHASE != DATA` implies `BIT = 0` and `BYTE = 0`. -/
  outside_data : s.phase ≠ .data → s.bit = 0 ∧ s.byte = 0

/-- The reload value of the timer of a phase (42_serializer.md R191); there is no timer in IDLE. -/
def reload (s : State) : Nat :=
  match s.phase with
  | .idle => 0
  | .brk => breakCycles s
  | .mab => mabCycles s
  | .data => bitCycles s

/-- REM counts the cycles left, the current one included: 0 in IDLE (93_implementation_defined.md U3), else between 1 and
the reload value (10_state.md R41, 42_serializer.md R191). -/
structure TimerInv (s : State) : Prop where
  /-- REM is 0 while idle. -/
  idle_zero : busy s = false → s.rem = 0
  /-- The current cycle is counted. -/
  busy_pos : busy s = true → 1 ≤ s.rem
  /-- REM never exceeds the reload value. -/
  le_reload : s.rem ≤ reload s

/-- The host writes the word `w` to CMD in this cycle, and there is no reset: an admitted write (20_memory.md R72) at the
offset of CMD. -/
def WritesCommand (p : Ports) (w : Word) : Prop :=
  p.rst = false ∧ p.req = true ∧ p.we = true ∧ p.size = 2#2 ∧ p.addr = 0x000C#16 ∧ p.wdata = w

/-- This cycle's tick is the end of a frame: the last cycle of the second stop bit of slot 512 (42_serializer.md R186). -/
def LastCycle (s : State) : Prop := s.phase = .data ∧ s.rem ≤ 1 ∧ s.bit.val = 10 ∧ s.byte.val = 512

/-- The reset value of every field the spec gives one, and the outputs (10_state.md R50). The frame buffer's content is
unspecified there (R47) and so is not in this list. -/
structure HasResetValues (t : State) : Prop where
  rts : t.rts = false
  isOpen : t.isOpen = false
  closing : t.closing = false
  phase : t.phase = .idle
  rem : t.rem = 0
  bit : t.bit.val = 0
  byte : t.byte.val = 0
  err : t.err = 0#8
  baudDiv : t.baudDiv.toNat = Config.params.fBaseHz / 250000
  brkUs : t.brkUs.toNat = 200
  mabUs : t.mabUs.toNat = 20
  serial : t.serial = 0#32
  addr : t.addr = 0#32
  frameCnt : t.frameCnt = 0#32
  ck1 : t.ck1 = 0#8
  ck2 : t.ck2 = 0#8
  tx_mark : line t = true
  rts_low : rtsOut t = false
  rdata_zero : t.busRdata = 0#32

/-- The host asserts no reset in the cycles it has queued. -/
def NoReset (q : List Ports) : Prop := ∀ p ∈ q, p.rst = false

/-- The host does not command SEND in these cycles. -/
def NoSend (q : List Ports) : Prop := ∀ p ∈ q, ¬WritesCommand p 0x00000005#32

end Sys2Proof.Machine
end

