-- ==== Sys2Proof/Certificates/Slice0/Obligations.lean ====
section
/-! DEFINITION. The statements for the provers. Each docstring names the rule of spec/ it formalises. -/

open Sys2Proof Sys2Proof.Machine

/-! ## Parameters and reset -/

/-- 00_scope.md section 4: the build's parameters meet every constraint of a legal parameter set, whatever the uninterpreted
set is (the model's construction, log 6), and the two derived divisors are the functions of F_BASE_HZ given there. -/
def Obligations.BuildParametersAreLegal : Prop :=
  let P := Config.params
  250000 ≤ P.fBaseHz ∧ 1 ≤ Config.baudDivRst ∧ Config.baudDivRst ≤ 65535 ∧ 1 ≤ Config.usDiv ∧
    2 ≤ P.progLen ∧ P.progLen ≤ 513 ∧
    (∀ k ∈ [P.offSerial, P.offSerial + 1, P.offSerial + 2, P.offAddr, P.offAddr + 1, P.offCk1, P.offCk2],
      2 ≤ k ∧ k ≤ P.progLen - 1) ∧
    [P.offSerial, P.offSerial + 1, P.offSerial + 2, P.offAddr, P.offAddr + 1, P.offCk1, P.offCk2].Nodup ∧
    Config.usDiv = ⌈(P.fBaseHz : ℚ) / 1000000⌉₊ ∧ Config.baudDivRst = P.fBaseHz / 250000

/-- 10_state.md sections 4, 10 and 14: the state after reset meets the invariants that every step keeps. That its frame buffer
is in canonical form is about the model's own representation (log 5), not a sentence of the spec. -/
def Obligations.ResetStateMeetsInvariants : Prop :=
  StatusInv State.reset ∧ TimerInv State.reset ∧ State.reset.fb.wf = true

/-- 10_state.md R50 and 70_reset_and_hazards.md R250: at an edge with `rst = 1` every piece of state takes its reset value,
whatever the state and the access, which is discarded; `State.reset` holds the same values. -/
def Obligations.ResetEdgeForcesResetValues : Prop :=
  HasResetValues State.reset ∧
  ∀ (s : State) (p : Ports) (rest : List Ports), s.hostQueue = p :: rest → p.rst = true →
    ∃ t, step s = .next t ∧ HasResetValues t

/-- 93_implementation_defined.md U1: each reset edge draws the frame buffer anew, as free values. That every reset edge makes
a draw of its own, numbered by a counter, is the model's choice (logs 3 and 4); that the host's later ports are kept is its
form of the inputs (log 1); the canonical form is its representation of the buffer (log 5). -/
def Obligations.ResetDrawsFrameBufferAfresh : Prop :=
  (∀ i : FrameIndex, State.reset.fb.read i = Config.resetByte 0 i.val) ∧ State.reset.fb.wf = true ∧
  ∀ (s : State) (p : Ports) (rest : List Ports), s.hostQueue = p :: rest → p.rst = true →
    ∃ t, step s = .next t ∧ (∀ i : FrameIndex, t.fb.read i = Config.resetByte s.draws i.val) ∧ t.fb.wf = true ∧
      t.draws = s.draws + 1 ∧ t.hostQueue = rest

/-! ## Command words -/

/-- 30_encoding.md section 1: a word is a command exactly when it is that command's encoding, so no bit of a word is
dropped and no two words are one command. -/
def Obligations.DecodeIsInverseOfEncode : Prop :=
  ∀ (w : Word) (i : Instr), decode w = .command i ↔ w = encode i

/-- 30_encoding.md R102: the opcode map, word by word; every word with an opcode 6 to 15 is reserved. -/
def Obligations.CommandMapWords : Prop :=
  decode 0x00000000#32 = .command .nop ∧ decode 0x00000001#32 = .command .openPort ∧
  decode 0x00000002#32 = .command .closePort ∧ decode 0x00000003#32 = .command .buildProg ∧
  decode 0x00000004#32 = .command (.buildInd false) ∧ decode 0x00000104#32 = .command (.buildInd true) ∧
  decode 0x00000005#32 = .command .send ∧
  ∀ (w : Word) (s : State), 6 ≤ (w.extractLsb' 0 4).toNat → command w s = .next { s with err := s.err ||| 0x20#8 }

/-- 30_encoding.md R103, 60_exceptions.md R227: a word with a reserved bit set, an opcode 6 to 15, or G = 1 with an opcode
other than 4 raises Err(BADCMD) and has no other effect; every other word is a command and is performed, and the word 0 has
no effect in any state. -/
def Obligations.IllegalWordRaisesBadCmdOnly : Prop :=
  ∀ (w : Word) (s : State),
    let illegal :=
      (∃ k, ((4 ≤ k ∧ k ≤ 7) ∨ (9 ≤ k ∧ k ≤ 31)) ∧ w.getLsbD k = true) ∨ 6 ≤ (w.extractLsb' 0 4).toNat ∨
        (w.getLsbD 8 = true ∧ (w.extractLsb' 0 4).toNat ≠ 4)
    (illegal → command w s = .next { s with err := s.err ||| 0x20#8 }) ∧
    (¬illegal → ∃ i, w = encode i ∧ command w s = exec i s) ∧
    command 0x00000000#32 s = .next s

/-- A step performs the decoded command: in a cycle whose access is a write of a command's word to CMD, the step is the
command's meaning applied to the ticked state, with the ports moved on and `bus_rdata` at 0. -/
def Obligations.StepPerformsDecodedCommand : Prop :=
  (∀ (s : State) (p : Ports) (rest : List Ports) (w : Word) (i : Instr), s.hostQueue = p :: rest → WritesCommand p w →
    decode w = .command i → step s = exec i (tick { s with hostQueue := rest, busRdata := 0#32 })) ∧
  ∀ (s : State) (nbits w : Nat) (i : Instr), decodeTableWord nbits w = some i →
    step (s.withFetchWord nbits w) = exec i (tick { s with hostQueue := s.hostQueue.tail, busRdata := 0#32 })

/-- 42_serializer.md R180: a cycle is the reset, or the tick and then the access on the ticked state; what the tick changes;
which commands change the fields the tick writes; a read takes its value from the ticked state. -/
def Obligations.CycleIsTickThenAccess : Prop :=
  ∀ (s : State),
    ((currentPorts s).rst = true → step s = .next (State.afterReset s.draws s.hostQueue.tail)) ∧
    ((currentPorts s).rst = false → step s = access (currentPorts s) (tick (nextCycle s))) ∧
    (∀ p : Ports, p.req = false → access p s = .next s) ∧
    (tick s = { s with phase := (tick s).phase, rem := (tick s).rem, bit := (tick s).bit, byte := (tick s).byte,
                       frameCnt := (tick s).frameCnt, isOpen := (tick s).isOpen, closing := (tick s).closing }) ∧
    (∀ (p : Ports) (t : State), p.rst = false → access p s = .next t →
      t.frameCnt = s.frameCnt ∧
      (¬WritesCommand p 0x00000005#32 →
        t.phase = s.phase ∧ t.rem = s.rem ∧ t.bit = s.bit ∧ t.byte = s.byte) ∧
      (¬WritesCommand p 0x00000001#32 → ¬WritesCommand p 0x00000002#32 →
        t.isOpen = s.isOpen ∧ t.closing = s.closing)) ∧
    (∀ (p : Ports) (r : Reg), p.req = true → p.we = false → admitted p = some r →
      access p s = .next { s with busRdata := readReg r s })

/-! ## Packet builder -/

/-- 40_packet_builder.md R120: `mod256 x` is the unique r in [0, 255] with `x - r` a multiple of 256. -/
def Obligations.Mod256IsTheResidue : Prop :=
  (∀ x r : Int, (0 ≤ r ∧ r ≤ 255 ∧ (256 : Int) ∣ x - r) ↔ r = mod256 x) ∧
  (∀ x : Int, mod256 x = x - 256 * ⌊(x : ℚ) / 256⌋) ∧
  mod256 (-1) = 255 ∧ mod256 (-3080000) = 192

/-- 40_packet_builder.md R121 to R123: an accepted BUILD_PROG leaves in CKSUM the two checksum bytes of the formula, over
the full 32-bit registers read as unsigned numbers. -/
def Obligations.ChecksumBytesFollowFormula : Prop :=
  ∀ s : State, busy s = false → ∃ t, exec .buildProg s = .next t ∧
    let S : Int := (s.serial.toNat : Int) - 3080000
    let A : Int := (s.addr.toNat : Int) - 1
    let corr : Int := (if S > 191 then (if S - 192 > 255 then (S - 192).tdiv 256 + 2 else 2) else 0) +
      (if A ≥ 255 then 1 else 0)
    S ≥ -3080000 ∧ S ≤ 4291887295 ∧ A ≥ -1 ∧ A ≤ 4294967294 ∧
    (t.ck1.toNat : Int) = (((S + A) % 256 + 0x46) % 256 + corr) % 256 ∧
    (t.ck2.toNat : Int) = (((S + A) % 256 * 2 + 0xCA) % 256 + corr * 2) % 256

/-- 40_packet_builder.md section 1, which marks this as derived from its formulas: the closed forms of the correction term and
the checksum bytes, the range of the correction term, and that only the low 8 bits of the two sums matter. -/
def Obligations.ChecksumClosedForms : Prop :=
  (∀ serial addr : Word,
    let s := serialDelta serial
    let a := addrDelta addr
    let corr := correction s a
    corr = (if s > 191 then (s + 320) / 256 else 0) + (if a ≥ 255 then 1 else 0) ∧
    check1 s a = mod256 (s + a + 0x46 + corr) ∧
    check2 s a = mod256 (2 * (s + a) + 0xCA + 2 * corr) ∧
    check2 s a = mod256 (2 * check1 s a + 0x3E) ∧
    0 ≤ corr ∧ corr ≤ 16765186 ∧
    ((checksum1 serial addr).toNat : Int) = check1 s a ∧ ((checksum2 serial addr).toNat : Int) = check2 s a) ∧
  (∀ serial addr serial' addr' : Word,
    mod256 (serialDelta serial + addrDelta addr) = mod256 (serialDelta serial' + addrDelta addr') →
    mod256 (correction (serialDelta serial) (addrDelta addr)) =
      mod256 (correction (serialDelta serial') (addrDelta addr')) →
    checksum1 serial addr = checksum1 serial' addr' ∧ checksum2 serial addr = checksum2 serial' addr') ∧
  correction (serialDelta 0xFFFFFFFF#32) (addrDelta 0xFFFFFFFF#32) = 16765186

/-- 40_packet_builder.md R131: BUILD_PROG in every state: Err(BUSY) while busy, else the buffer and CKSUM are written and
nothing else; an ill-formed word of its opcode is Err(BADCMD). -/
def Obligations.BuildProgCommand : Prop :=
  decode 0x00000003#32 = .command .buildProg ∧
  ∀ s : State,
    (busy s = true → exec .buildProg s = .next { s with err := s.err ||| 0x08#8 }) ∧
    (busy s = false → exec .buildProg s =
      .next { s with fb := Memory.ofBytes (progPacket s.serial s.addr), ck1 := checksum1 s.serial s.addr,
                     ck2 := checksum2 s.serial s.addr }) ∧
    (∀ w : Word, w.extractLsb' 0 4 = 3#4 → w ≠ 0x00000003#32 → command w s = .next { s with err := s.err ||| 0x20#8 })

/-- 40_packet_builder.md R130: the 513 bytes an accepted BUILD_PROG leaves in the buffer. -/
def Obligations.ProgrammingPacketBytes : Prop :=
  ∀ s : State, busy s = false → ∃ t, exec .buildProg s = .next t ∧
    ∀ i : FrameIndex,
      let P := Config.params
      (i.val = P.offSerial → t.fb.read i = s.serial.extractLsb' 16 8) ∧
      (i.val = P.offSerial + 1 → t.fb.read i = s.serial.extractLsb' 8 8) ∧
      (i.val = P.offSerial + 2 → t.fb.read i = s.serial.extractLsb' 0 8) ∧
      (i.val = P.offAddr → t.fb.read i = s.addr.extractLsb' 8 8) ∧
      (i.val = P.offAddr + 1 → t.fb.read i = s.addr.extractLsb' 0 8) ∧
      (i.val = P.offCk1 → t.fb.read i = checksum1 s.serial s.addr) ∧
      (i.val = P.offCk2 → t.fb.read i = checksum2 s.serial s.addr) ∧
      (i.val ∉ [P.offSerial, P.offSerial + 1, P.offSerial + 2, P.offAddr, P.offAddr + 1, P.offCk1, P.offCk2] →
        t.fb.read i = if i.val < P.progLen then Config.progTemplate i.val else 0x00#8)

/-- 40_packet_builder.md R141: BUILD_IND in every state, for both values of G: Err(BUSY) while busy, Err(RANGE) with ADDR
outside [1, 509], else the buffer is written and nothing else; an ill-formed word of its opcode is Err(BADCMD). -/
def Obligations.BuildIndCommand : Prop :=
  decode 0x00000004#32 = .command (.buildInd false) ∧ decode 0x00000104#32 = .command (.buildInd true) ∧
  ∀ s : State,
    (∀ g, busy s = true → exec (.buildInd g) s = .next { s with err := s.err ||| 0x08#8 }) ∧
    (∀ g, busy s = false → (s.addr.toNat < 1 ∨ 509 < s.addr.toNat) →
      exec (.buildInd g) s = .next { s with err := s.err ||| 0x10#8 }) ∧
    (∀ g, busy s = false → 1 ≤ s.addr.toNat → s.addr.toNat ≤ 509 →
      exec (.buildInd g) s = .next { s with fb := Memory.ofBytes (indicator s.addr.toNat g) }) ∧
    (∀ w : Word, w.extractLsb' 0 4 = 4#4 → w ≠ 0x00000004#32 → w ≠ 0x00000104#32 →
      command w s = .next { s with err := s.err ||| 0x20#8 })

/-- 40_packet_builder.md R140: the 513 bytes an accepted BUILD_IND leaves in the buffer: the target block, the red
bytes outside it, and 0x00 everywhere else. -/
def Obligations.IndicatorFrameBytes : Prop :=
  ∀ (s : State) (g : Bool), busy s = false → 1 ≤ s.addr.toNat → s.addr.toNat ≤ 509 →
    ∃ t, exec (.buildInd g) s = .next t ∧
      ∀ i : FrameIndex,
        let A := s.addr.toNat
        (i.val = A → t.fb.read i = 0x00#8) ∧
        (i.val = A + 1 → t.fb.read i = if g then 0xFF#8 else 0x00#8) ∧
        (i.val = A + 2 → t.fb.read i = 0x00#8) ∧
        (i.val ≠ A → i.val ≠ A + 1 → i.val ≠ A + 2 →
          t.fb.read i = if 1 ≤ i.val ∧ i.val % 3 = 1 then 0xFF#8 else 0x00#8)

/-- 95_test_vectors.md V-C, which marks it as derived: after every accepted BUILD_IND the buffer holds exactly 170 + G bytes 0xFF. -/
def Obligations.IndicatorHas170RedBytesPlusGreen : Prop :=
  ∀ (s : State) (g : Bool), busy s = false → 1 ≤ s.addr.toNat → s.addr.toNat ≤ 509 →
    ∃ t, exec (.buildInd g) s = .next t ∧
      (List.finRange 513).countP (fun i => t.fb.read i == 0xFF#8) = 170 + (if g then 1 else 0)

/-- 40_packet_builder.md section 4, which marks this as derived: the buffer after an accepted build depends only on the command and its operands, never
on the earlier buffer; a refused build writes no byte of it. -/
def Obligations.BuildersIgnoreEarlierBuffer : Prop :=
  (∀ (s s' t t' : State), busy s = false → busy s' = false → s.serial = s'.serial → s.addr = s'.addr →
    (exec .buildProg s = .next t → exec .buildProg s' = .next t' → t.fb = t'.fb) ∧
    (∀ g, 1 ≤ s.addr.toNat → s.addr.toNat ≤ 509 →
      exec (.buildInd g) s = .next t → exec (.buildInd g) s' = .next t' → t.fb = t'.fb)) ∧
  (∀ (s t : State) (w : Word) (why : IllFormed), decode w = .illegal why → command w s = .next t → t.fb = s.fb) ∧
  (∀ (s t : State), busy s = true →
    (exec .buildProg s = .next t → t.fb = s.fb) ∧ (∀ g, exec (.buildInd g) s = .next t → t.fb = s.fb)) ∧
  (∀ (s t : State) (g : Bool), s.addr.toNat < 1 ∨ 509 < s.addr.toNat → exec (.buildInd g) s = .next t → t.fb = s.fb)

/-! ## Transport commands -/

/-- 41_transport.md R161: NOP has no effect and raises nothing, in any state; a word with OP = 0 and any other bit set is no
NOP. -/
def Obligations.NopDoesNothing : Prop :=
  decode 0x00000000#32 = .command .nop ∧
  ∀ s : State, exec .nop s = .next s ∧
    ∀ w : Word, w.extractLsb' 0 4 = 0#4 → w ≠ 0x00000000#32 → command w s = .next { s with err := s.err ||| 0x20#8 }

/-- 41_transport.md R162: OPEN in every state: BUSY, then DEVOPEN, then BAUD, else the port opens and RTS is deasserted. -/
def Obligations.OpenCommand : Prop :=
  decode 0x00000001#32 = .command .openPort ∧
  ∀ s : State,
    (busy s = true → exec .openPort s = .next { s with err := s.err ||| 0x08#8 }) ∧
    (busy s = false → s.isOpen = true → exec .openPort s = .next { s with err := s.err ||| 0x01#8 }) ∧
    (busy s = false → s.isOpen = false → s.baudDiv = 0#16 →
      exec .openPort s = .next { s with err := s.err ||| 0x02#8 }) ∧
    (busy s = false → s.isOpen = false → s.baudDiv ≠ 0#16 →
      exec .openPort s = .next { s with isOpen := true, rts := false })

/-- 41_transport.md R163: CLOSE in every state: NOTOPEN when closed or closing, a deferred close while busy, else the port
closes. -/
def Obligations.CloseCommand : Prop :=
  decode 0x00000002#32 = .command .closePort ∧
  ∀ s : State,
    (s.isOpen = false ∨ s.closing = true → exec .closePort s = .next { s with err := s.err ||| 0x04#8 }) ∧
    (s.isOpen = true → s.closing = false → busy s = true → exec .closePort s = .next { s with closing := true }) ∧
    (s.isOpen = true → s.closing = false → busy s = false → exec .closePort s = .next { s with isOpen := false })

/-- 41_transport.md R164: SEND in every state: BUSY, then NOTOPEN, else the break starts: BUSY reads 1 and the line is at
space from the next cycle. -/
def Obligations.SendCommand : Prop :=
  decode 0x00000005#32 = .command .send ∧
  ∀ s : State,
    (busy s = true → exec .send s = .next { s with err := s.err ||| 0x08#8 }) ∧
    (busy s = false → s.isOpen = false → exec .send s = .next { s with err := s.err ||| 0x04#8 }) ∧
    (busy s = false → s.isOpen = true →
      ∃ t, exec .send s = .next t ∧
        t = { s with phase := .brk, rem := s.brkUs.toNat * Config.usDiv, bit := 0, byte := 0 } ∧
        (readReg .status t).getLsbD 1 = true ∧ line t = false)

/-- What the six commands leave unchanged: the operand registers, the timing registers, FRAMECNT, the read data and the
host's ports in every case; RTS but for OPEN; the serializer but for SEND; the port state but for OPEN and CLOSE; CKSUM but
for BUILD_PROG; every byte of the frame buffer but for the builders; and no ERR bit is ever cleared. -/
def Obligations.CommandFrames : Prop :=
  ∀ (i : Instr) (s t : State), exec i s = .next t →
    (t.baudDiv = s.baudDiv ∧ t.brkUs = s.brkUs ∧ t.mabUs = s.mabUs ∧ t.serial = s.serial ∧ t.addr = s.addr ∧
      t.frameCnt = s.frameCnt ∧ t.busRdata = s.busRdata ∧ t.hostQueue = s.hostQueue ∧ t.draws = s.draws) ∧
    (i ≠ .openPort → t.rts = s.rts) ∧
    (i ≠ .send → t.phase = s.phase ∧ t.rem = s.rem ∧ t.bit = s.bit ∧ t.byte = s.byte) ∧
    (i ≠ .openPort → i ≠ .closePort → t.isOpen = s.isOpen) ∧
    (i ≠ .closePort → t.closing = s.closing) ∧
    (i ≠ .buildProg → t.ck1 = s.ck1 ∧ t.ck2 = s.ck2) ∧
    (i ≠ .buildProg → (∀ g, i ≠ .buildInd g) → ∀ k : FrameIndex, t.fb.read k = s.fb.read k) ∧
    (t.err = s.err ∨ ∃ e, t = raise e s)

/-! ## Serializer -/

/-- 42_serializer.md R181 to R183: the tick in IDLE, in BREAK and in MAB; a frame starts only by an accepted SEND; the lengths
of the break and of the mark-after-break that follow one. -/
def Obligations.BreakAndMabTimers : Prop :=
  (∀ s : State,
    (s.phase = .idle → tick s = s) ∧
    (s.phase = .brk → 1 < s.rem → tick s = { s with rem := s.rem - 1 }) ∧
    (s.phase = .brk → s.rem ≤ 1 → tick s = { s with phase := .mab, rem := s.mabUs.toNat * Config.usDiv }) ∧
    (s.phase = .mab → 1 < s.rem → tick s = { s with rem := s.rem - 1 }) ∧
    (s.phase = .mab → s.rem ≤ 1 →
      tick s = { s with phase := .data, byte := 0, bit := 0, rem := s.baudDiv.toNat })) ∧
  (∀ s t : State, busy (tick s) = false → step s = .next t → busy t = true →
    WritesCommand (currentPorts s) 0x00000005#32 ∧ (tick s).isOpen = true) ∧
  ∀ s : State, StatusInv s → busy s = false → s.isOpen = true → ∃ t, exec .send s = .next t ∧
    let B := s.brkUs.toNat * Config.usDiv
    let M := s.mabUs.toNat * Config.usDiv
    (∀ j, (j < B → (tick^[j] t).phase = .brk) ∧ (B ≤ j → j < B + M → (tick^[j] t).phase = .mab)) ∧
      tick^[B + M] t = { t with phase := .data, byte := 0, bit := 0, rem := s.baudDiv.toNat }

/-- 42_serializer.md R184, R186: the tick in DATA and the end of the frame; each bit lasts DIV cycles, each slot 11 times
that, in index order, and the frame ends after slot 512. -/
def Obligations.BaudTimerAndFrameEnd : Prop :=
  (∀ s : State, s.phase = .data →
    (1 < s.rem → tick s = { s with rem := s.rem - 1 }) ∧
    (s.rem ≤ 1 → s.bit.val < 10 →
      tick s = { s with bit := (tick s).bit, rem := s.baudDiv.toNat } ∧ (tick s).bit.val = s.bit.val + 1) ∧
    (s.rem ≤ 1 → s.bit.val = 10 → s.byte.val < 512 →
      tick s = { s with byte := (tick s).byte, bit := 0, rem := s.baudDiv.toNat } ∧
        (tick s).byte.val = s.byte.val + 1) ∧
    (s.rem ≤ 1 → s.bit.val = 10 → s.byte.val = 512 →
      tick s = { s with phase := .idle, bit := 0, byte := 0, rem := 0, frameCnt := s.frameCnt + 1#32,
                        closing := false, isOpen := s.isOpen && !s.closing })) ∧
  ∀ s : State, s.phase = .data → s.byte = 0 → s.bit = 0 → s.rem = s.baudDiv.toNat → s.baudDiv ≠ 0#16 →
    let D := s.baudDiv.toNat
    (∀ (k : FrameIndex) (p : Fin 11) (c : Nat), c < D →
      tick^[(11 * k.val + p.val) * D + c] s = { s with byte := k, bit := p, rem := D - c }) ∧
    tick^[5643 * D] s = { s with phase := .idle, bit := 0, byte := 0, rem := 0, frameCnt := s.frameCnt + 1#32,
                                 closing := false, isOpen := s.isOpen && !s.closing }

/-- 42_serializer.md section 2 and 30_encoding.md section 3: the level of the line in every phase, and the eleven levels of a slot.
The start and stop levels and the bit order are the spec's general knowledge, its items G1 and G2 (log 9). -/
def Obligations.LineLevels : Prop :=
  ∀ s : State,
    (s.phase = .idle → line s = true) ∧ (s.phase = .brk → line s = false) ∧ (s.phase = .mab → line s = true) ∧
    (s.phase = .data →
      (s.bit.val = 0 → line s = false) ∧
      (∀ p, 1 ≤ p → p ≤ 8 → s.bit.val = p → line s = (s.fb.read s.byte).getLsbD (p - 1)) ∧
      (s.bit.val = 9 ∨ s.bit.val = 10 → line s = true))

/-- 42_serializer.md section 3 and 41_transport.md section 3, which mark this as derived: the whole waveform of a frame, with
the slot levels of the spec's general knowledge (G1, G2, log 9). Whatever else the host accesses during the
frame, and with no reset: the break, the mark-after-break, the 513 slots of the buffer as it stood at the SEND, BUSY
throughout, and then FRAMECNT one larger and BUSY 0 for as long as no further SEND is commanded. -/
def Obligations.FrameWaveform : Prop :=
  ∀ (s : State) (p : Ports) (rest : List Ports), StatusInv s → s.hostQueue = p :: rest →
    WritesCommand p 0x00000005#32 → busy (tick s) = false → (tick s).isOpen = true → NoReset rest →
    let B := s.brkUs.toNat * Config.usDiv
    let M := s.mabUs.toNat * Config.usDiv
    let D := s.baudDiv.toNat
    let T := B + M + 5643 * D
    (∀ j, j < B → ∃ u, Runs (1 + j) s u ∧ line u = false) ∧
    (∀ j, j < M → ∃ u, Runs (1 + B + j) s u ∧ line u = true) ∧
    (∀ (k : FrameIndex) (q : Fin 11) (c : Nat), c < D →
      ∃ u, Runs (1 + B + M + (11 * k.val + q.val) * D + c) s u ∧ line u = slotLevel (s.fb.read k) q.val) ∧
    (∀ j, j < T → ∃ u, Runs (1 + j) s u ∧ busy u = true ∧ u.frameCnt = (tick s).frameCnt) ∧
    (∀ m, NoSend (rest.drop (T - 1)) →
      ∃ u, Runs (1 + T + m) s u ∧ busy u = false ∧ u.frameCnt = (tick s).frameCnt + 1#32)

/-- 42_serializer.md section 3: while no frame is being sent the line is at mark, and it stays there however long, until a SEND is
commanded. -/
def Obligations.IdleLineStaysAtMark : Prop :=
  ∀ (k : Nat) (s t : State), busy s = false → NoSend s.hostQueue → Runs k s t → busy t = false ∧ line t = true

/-- 70_reset_and_hazards.md section 3: a SEND in the cycle a frame ends is accepted and the next break starts in the next
cycle. That the line is at mark in the last cycle is the level of a stop bit, the spec's general knowledge, its item G2
(log 9). -/
def Obligations.BackToBackSendStartsBreakAtOnce : Prop :=
  ∀ (s : State) (p : Ports) (rest : List Ports), s.hostQueue = p :: rest → WritesCommand p 0x00000005#32 →
    LastCycle s → s.isOpen = true → s.closing = false →
    ∃ t, step s = .next t ∧ line s = true ∧ line t = false ∧ t.err = s.err ∧ t.phase = .brk ∧
      t.rem = s.brkUs.toNat * Config.usDiv ∧ t.frameCnt = s.frameCnt + 1#32

/-- 70_reset_and_hazards.md R258: after a CLOSE accepted while busy, OPEN stays 1 and CLOSING 1 until the frame ends; in that
time OPEN and SEND raise BUSY and a second CLOSE raises NOTOPEN; at the frame's end the port is closed. -/
def Obligations.DeferredCloseWaitsForFrameEnd : Prop :=
  (∀ s : State, busy s = true → s.isOpen = true → s.closing = false →
    exec .closePort s = .next { s with closing := true }) ∧
  (∀ s : State, busy s = true → s.closing = true →
    exec .openPort s = .next { s with err := s.err ||| 0x08#8 } ∧
    exec .send s = .next { s with err := s.err ||| 0x08#8 } ∧
    exec .closePort s = .next { s with err := s.err ||| 0x04#8 }) ∧
  ∀ (s t : State), StatusInv s → s.closing = true → (currentPorts s).rst = false → step s = .next t →
    (¬LastCycle s → t.closing = true ∧ t.isOpen = true ∧ busy t = true) ∧
    (LastCycle s → (tick s).isOpen = false ∧ (tick s).closing = false ∧
      (¬WritesCommand (currentPorts s) 0x00000001#32 → t.isOpen = false ∧ t.closing = false ∧ busy t = false))

/-- 42_serializer.md section 3, which marks this as derived: the break lasts at least BRK_US microseconds, which is at least 176, and the mark-after-break at
least MAB_US, at least 8, whatever the clock; both are exact at a multiple of 1 MHz. Times are compared as
`cycles * 1000000` against `microseconds * F_BASE_HZ`. -/
def Obligations.BreakAndMabMeetTheirMinima : Prop :=
  ∀ s : State, StatusInv s →
    let F := Config.params.fBaseHz
    F ≤ Config.usDiv * 1000000 ∧
    s.brkUs.toNat * F ≤ breakCycles s * 1000000 ∧ 176 * F ≤ breakCycles s * 1000000 ∧
    s.mabUs.toNat * F ≤ mabCycles s * 1000000 ∧ 8 * F ≤ mabCycles s * 1000000 ∧
    (F % 1000000 = 0 →
      breakCycles s * 1000000 = s.brkUs.toNat * F ∧ mabCycles s * 1000000 = s.mabUs.toNat * F ∧
      breakCycles State.reset * 1000000 = 200 * F ∧ mabCycles State.reset * 1000000 = 20 * F)

/-- 42_serializer.md section 3, which marks this as derived: with the reset divisor the bit rate is 250000 when F_BASE_HZ is a multiple of 250000, and otherwise
greater by the stated factor. -/
def Obligations.ResetBitRate : Prop :=
  let F := Config.params.fBaseHz
  let rate : ℚ := (F : ℚ) / (State.reset.baudDiv.toNat : ℚ)
  (F % 250000 = 0 → rate = 250000) ∧
  (F % 250000 ≠ 0 → 250000 < rate ∧ rate = 250000 * (((F : ℚ) / 250000) / ((F / 250000 : Nat) : ℚ)))

/-! ## Host bus and registers -/

/-- 20_memory.md R73: the data of a read is on `bus_rdata` in the next cycle and is the register's value in that cycle's
state; the read changes no state except ERR.BUS for a read that is not admitted; after any other cycle `bus_rdata` is 0. -/
def Obligations.ReadDataComesInNextCycle : Prop :=
  ∀ (s t : State), step s = .next t →
    let p := currentPorts s
    (p.rst = false → p.req = true → p.we = false → ∀ r, admitted p = some r →
      t = { tick (nextCycle s) with busRdata := readReg r t }) ∧
    (p.rst = false → p.req = true → p.we = false → admitted p = none →
      t = raise .bus (tick (nextCycle s)) ∧ t.busRdata = 0#32) ∧
    (p.rst = true ∨ p.req = false ∨ p.we = true → t.busRdata = 0#32)

/-- 20_memory.md R72, 60_exceptions.md R228: an access is admitted when it is 4 bytes, 4-aligned and mapped; any other raises
Err(BUS), a read of it returns 0, and nothing else changes. -/
def Obligations.UnadmittedAccessRaisesBusOnly : Prop :=
  ∀ s : State,
    let p := currentPorts s
    p.rst = false → p.req = true →
    let good := p.size = 2#2 ∧ p.addr.toNat % 4 = 0 ∧
      (p.addr.toNat ≤ 0x002F ∨ (0x1000 ≤ p.addr.toNat ∧ p.addr.toNat ≤ 0x1803))
    (¬good → ∃ t, step s = .next t ∧ t.busRdata = 0#32 ∧
      t = { tick (nextCycle s) with err := (tick (nextCycle s)).err ||| 0x40#8 }) ∧
    (good → ∃ r, admitted p = some r ∧
      step s = if p.we then hostWrite r p.wdata (tick (nextCycle s)) else .next (hostRead r (tick (nextCycle s))))

/-- 20_memory.md R71 with the offsets of 10_state.md R22: what each offset of the host space maps to. -/
def Obligations.AddressMap : Prop :=
  (∀ off : Half,
    (off.toNat / 4 = 0x0000 / 4 → wordAt off = some .ctrl) ∧ (off.toNat / 4 = 0x0004 / 4 → wordAt off = some .status) ∧
    (off.toNat / 4 = 0x0008 / 4 → wordAt off = some .err) ∧ (off.toNat / 4 = 0x000C / 4 → wordAt off = some .cmd) ∧
    (off.toNat / 4 = 0x0010 / 4 → wordAt off = some .baudDiv) ∧
    (off.toNat / 4 = 0x0014 / 4 → wordAt off = some .brkUs) ∧
    (off.toNat / 4 = 0x0018 / 4 → wordAt off = some .mabUs) ∧
    (off.toNat / 4 = 0x001C / 4 → wordAt off = some .serial) ∧
    (off.toNat / 4 = 0x0020 / 4 → wordAt off = some .addr) ∧
    (off.toNat / 4 = 0x0024 / 4 → wordAt off = some .frameCnt) ∧
    (off.toNat / 4 = 0x0028 / 4 → wordAt off = some .format) ∧
    (off.toNat / 4 = 0x002C / 4 → wordAt off = some .cksum) ∧
    (∀ i : FrameIndex, off.toNat / 4 = (0x1000 + 4 * i.val) / 4 → wordAt off = some (.frame i)) ∧
    (0x0030 ≤ off.toNat → off.toNat ≤ 0x0FFF → wordAt off = none) ∧ (0x1804 ≤ off.toNat → wordAt off = none)) ∧
  ∀ (s : State) (i : FrameIndex),
    (readReg (.frame i) s).extractLsb' 0 8 = s.fb.read i ∧ (readReg (.frame i) s).extractLsb' 8 24 = 0#24

/-- 10_state.md R30, R32: the fields of STATUS, with BUSY being PHASE != 0; every other bit reads 0; it is read-only and 0 at
reset. -/
def Obligations.StatusFields : Prop :=
  (∀ s : State,
    let w := readReg .status s
    w.getLsbD 0 = s.isOpen ∧ (w.getLsbD 1 = true ↔ w.extractLsb' 4 2 ≠ 0#2) ∧ w.getLsbD 2 = s.closing ∧
    (s.phase = .idle → w.extractLsb' 4 2 = 0#2) ∧ (s.phase = .brk → w.extractLsb' 4 2 = 1#2) ∧
    (s.phase = .mab → w.extractLsb' 4 2 = 2#2) ∧ (s.phase = .data → w.extractLsb' 4 2 = 3#2) ∧
    (w.extractLsb' 12 4).toNat = s.bit.val ∧ (w.extractLsb' 16 10).toNat = s.byte.val ∧
    w.getLsbD 3 = false ∧ w.extractLsb' 6 6 = 0#6 ∧ w.extractLsb' 26 6 = 0#6) ∧
  (∀ (s : State) (w : Word), hostWrite .status w s = .next s) ∧ readReg .status State.reset = 0#32

/-- 10_state.md R23: reserved bits read as 0 and writes to them are ignored; writes to read-only registers are ignored without
error; CMD reads 0. -/
def Obligations.ReservedBitsAndReadOnlyRegisters : Prop :=
  (∀ (s : State) (k : Nat),
    (1 ≤ k → (readReg .ctrl s).getLsbD k = false) ∧ (8 ≤ k → (readReg .err s).getLsbD k = false) ∧
    (16 ≤ k → (readReg .baudDiv s).getLsbD k = false) ∧ (16 ≤ k → (readReg .brkUs s).getLsbD k = false) ∧
    (16 ≤ k → (readReg .mabUs s).getLsbD k = false) ∧ (9 ≤ k → (readReg .format s).getLsbD k = false) ∧
    (16 ≤ k → (readReg .cksum s).getLsbD k = false) ∧
    (k = 3 ∨ (6 ≤ k ∧ k ≤ 11) ∨ 26 ≤ k → (readReg .status s).getLsbD k = false) ∧
    (∀ i, 8 ≤ k → (readReg (.frame i) s).getLsbD k = false)) ∧
  (∀ (s : State) (w v : Word),
    (w.getLsbD 0 = v.getLsbD 0 → hostWrite .ctrl w s = hostWrite .ctrl v s) ∧
    (w.extractLsb' 0 8 = v.extractLsb' 0 8 →
      hostWrite .err w s = hostWrite .err v s ∧ ∀ i, hostWrite (.frame i) w s = hostWrite (.frame i) v s) ∧
    (w.extractLsb' 0 16 = v.extractLsb' 0 16 →
      hostWrite .baudDiv w s = hostWrite .baudDiv v s ∧ hostWrite .brkUs w s = hostWrite .brkUs v s ∧
      hostWrite .mabUs w s = hostWrite .mabUs v s)) ∧
  (∀ (s : State) (w : Word),
    hostWrite .status w s = .next s ∧ hostWrite .frameCnt w s = .next s ∧ hostWrite .format w s = .next s ∧
    hostWrite .cksum w s = .next s ∧ readReg .cmd s = 0#32)

/-- 10_state.md R24: a write to CTRL sets RTS to bit 0 of the data in any state, and the `rts` output equals RTS in every
cycle; reset and OPEN make it 0. -/
def Obligations.CtrlWriteSetsRts : Prop :=
  (∀ (s : State) (w : Word), hostWrite .ctrl w s = .next { s with rts := w.getLsbD 0 }) ∧
  (∀ s : State, rtsOut s = s.rts ∧ (readReg .ctrl s).getLsbD 0 = s.rts) ∧ State.reset.rts = false ∧
  ∀ s : State, busy s = false → s.isOpen = false → s.baudDiv ≠ 0#16 →
    ∃ t, exec .openPort s = .next t ∧ rtsOut t = false

/-- 10_state.md R35: a write to ERR clears each bit whose write-data bit is 1 and leaves the others, in every state; the
serializer sets no ERR bit. -/
def Obligations.ErrWriteOneToClear : Prop :=
  ∀ s : State, (tick s).err = s.err ∧ readReg .err s = s.err.setWidth 32 ∧
    ∀ w : Word, ∃ t, hostWrite .err w s = .next t ∧ t = { s with err := t.err } ∧
      ∀ k, k < 8 → t.err.getLsbD k = (s.err.getLsbD k && !w.getLsbD k)

/-- 10_state.md R37: a write to BAUDDIV: BUSY while busy, LOCKED while open, else the low half is stored, 0 included, and OPEN
refuses a stored 0; the field is bits 15:0; one bit on the wire lasts DIV cycles. -/
def Obligations.BaudDivWrite : Prop :=
  State.reset.baudDiv.toNat = Config.params.fBaseHz / 250000 ∧
  ∀ (s : State) (w : Word),
    (busy s = true → hostWrite .baudDiv w s = .next { s with err := s.err ||| 0x08#8 }) ∧
    (busy s = false → s.isOpen = true → hostWrite .baudDiv w s = .next { s with err := s.err ||| 0x80#8 }) ∧
    (busy s = false → s.isOpen = false → hostWrite .baudDiv w s = .next { s with baudDiv := w.extractLsb' 0 16 }) ∧
    (busy s = false → s.isOpen = false → s.baudDiv = 0#16 →
      exec .openPort s = .next { s with err := s.err ||| 0x02#8 }) ∧
    readReg .baudDiv s = s.baudDiv.setWidth 32 ∧
    (s.phase = .data → s.baudDiv ≠ 0#16 → s.rem = s.baudDiv.toNat →
      (∀ c, c < s.baudDiv.toNat →
        (tick^[c] s).phase = .data ∧ (tick^[c] s).bit = s.bit ∧ (tick^[c] s).byte = s.byte) ∧
      (tick^[s.baudDiv.toNat] s).bit ≠ s.bit)

/-- 10_state.md R38, R39: writes to BRK_US and MAB_US: BUSY while busy, else the larger of the low half and the floor is
stored; the fields are bits 15:0 and count microsecond ticks of US_DIV cycles. -/
def Obligations.BreakAndMabWrites : Prop :=
  State.reset.brkUs.toNat = 200 ∧ State.reset.mabUs.toNat = 20 ∧
  ∀ (s : State) (w : Word),
    (busy s = true → hostWrite .brkUs w s = .next { s with err := s.err ||| 0x08#8 } ∧
      hostWrite .mabUs w s = .next { s with err := s.err ||| 0x08#8 }) ∧
    (busy s = false →
      (∃ t, hostWrite .brkUs w s = .next t ∧ t = { s with brkUs := t.brkUs } ∧
        t.brkUs.toNat = max (w.extractLsb' 0 16).toNat 176) ∧
      (∃ t, hostWrite .mabUs w s = .next t ∧ t = { s with mabUs := t.mabUs } ∧
        t.mabUs.toNat = max (w.extractLsb' 0 16).toNat 8)) ∧
    readReg .brkUs s = s.brkUs.setWidth 32 ∧ readReg .mabUs s = s.mabUs.setWidth 32 ∧
    (busy s = false → s.isOpen = true → ∃ t, exec .send s = .next t ∧ t.rem = s.brkUs.toNat * Config.usDiv) ∧
    (s.phase = .brk → s.rem ≤ 1 → (tick s).phase = .mab ∧ (tick s).rem = s.mabUs.toNat * Config.usDiv)

/-- 10_state.md section 9: writes to SERIAL and ADDR store all 32 bits in any state, busy or not, and are read back; both
reset to 0; the serializer never changes them. -/
def Obligations.SerialAndAddrWrites : Prop :=
  State.reset.serial = 0#32 ∧ State.reset.addr = 0#32 ∧
  ∀ (s : State) (w : Word),
    (tick s).serial = s.serial ∧ (tick s).addr = s.addr ∧
    hostWrite .serial w s = .next { s with serial := w } ∧ hostWrite .addr w s = .next { s with addr := w } ∧
    readReg .serial s = s.serial ∧ readReg .addr s = s.addr

/-- 10_state.md R46: a write to FB[i]: BUSY while busy, else byte i is the low byte of the data and every other byte is
unchanged; a read returns the byte zero-extended in any state; the serializer only reads the buffer. -/
def Obligations.FrameBufferWrite : Prop :=
  ∀ (s : State) (i : FrameIndex),
    (∀ w, busy s = true → hostWrite (.frame i) w s = .next { s with err := s.err ||| 0x08#8 }) ∧
    (∀ w, busy s = false → ∃ t, hostWrite (.frame i) w s = .next t ∧ t = { s with fb := t.fb } ∧
      t.fb.read i = w.extractLsb' 0 8 ∧ (∀ j, j ≠ i → t.fb.read j = s.fb.read j)) ∧
    readReg (.frame i) s = (s.fb.read i).setWidth 32 ∧ (tick s).fb = s.fb

/-- 10_state.md R36, R43, and the layout of CKSUM of R44: CMD reads 0, FORMAT is hardwired, CKSUM holds CK1 and CK2. -/
def Obligations.HardwiredAndChecksumReads : Prop :=
  ∀ s : State,
    readReg .cmd s = 0#32 ∧ readReg .format s = 0x00000088#32 ∧ (readReg .format s).extractLsb' 0 4 = 8#4 ∧
    (readReg .format s).extractLsb' 4 2 = 0#2 ∧ (readReg .format s).extractLsb' 6 2 = 2#2 ∧
    (readReg .format s).getLsbD 8 = false ∧ (∀ w, hostWrite .format w s = .next s) ∧
    (∀ w i, decode w = .command i → hostWrite .cmd w s = exec i s) ∧
    (∀ w why, decode w = .illegal why → hostWrite .cmd w s = .next { s with err := s.err ||| 0x20#8 }) ∧
    (readReg .cksum s).extractLsb' 0 8 = s.ck1 ∧ (readReg .cksum s).extractLsb' 8 8 = s.ck2

/-- 20_memory.md section 5, which marks this as derived: reads have no side effect; a write to any register but CMD, made twice, has the effect of one; two SEND
writes in consecutive cycles send once and then raise BUSY. -/
def Obligations.WritesAreIdempotentButCommandsAreNot : Prop :=
  (∀ (r : Reg) (s : State), hostRead r s = { s with busRdata := readReg r s }) ∧
  (∀ (r : Reg) (w : Word) (s t : State), r ≠ .cmd → hostWrite r w s = .next t → hostWrite r w t = .next t) ∧
  ∀ (s : State) (p q : Ports) (rest : List Ports), StatusInv s → s.hostQueue = p :: q :: rest →
    WritesCommand p 0x00000005#32 → WritesCommand q 0x00000005#32 → busy (tick s) = false → (tick s).isOpen = true →
    ∃ t u, step s = .next t ∧ t.phase = .brk ∧ t.rem = breakCycles s ∧ t.err = s.err ∧ step t = .next u ∧
      u = { tick (nextCycle t) with err := s.err ||| 0x08#8 } ∧ u.phase = .brk ∧ u.rem = breakCycles s - 1

/-- What a write to a register other than CMD leaves unchanged: everything but the register's own field and ERR; the frame
buffer but for byte i of a write to FB[i]. -/
def Obligations.RegisterWriteFrames : Prop :=
  ∀ (r : Reg) (w : Word) (s t : State), r ≠ .cmd → hostWrite r w s = .next t →
    (t.isOpen = s.isOpen ∧ t.closing = s.closing ∧ t.phase = s.phase ∧ t.rem = s.rem ∧ t.bit = s.bit ∧
      t.byte = s.byte ∧ t.frameCnt = s.frameCnt ∧ t.ck1 = s.ck1 ∧ t.ck2 = s.ck2 ∧ t.busRdata = s.busRdata ∧
      t.hostQueue = s.hostQueue ∧ t.draws = s.draws) ∧
    (r ≠ .ctrl → t.rts = s.rts) ∧ (r ≠ .baudDiv → t.baudDiv = s.baudDiv) ∧ (r ≠ .brkUs → t.brkUs = s.brkUs) ∧
    (r ≠ .mabUs → t.mabUs = s.mabUs) ∧ (r ≠ .serial → t.serial = s.serial) ∧ (r ≠ .addr → t.addr = s.addr) ∧
    (∀ i : FrameIndex, r ≠ .frame i → t.fb.read i = s.fb.read i) ∧
    (r ≠ .err → t.err = s.err ∨ (t.err = s.err ||| 0x08#8) ∨ (r = .baudDiv ∧ t.err = s.err ||| 0x80#8))

/-- 70_reset_and_hazards.md section 3, which marks this as derived: a STATUS read in the cycle after an accepted SEND shows BUSY = 1, and a STATUS read in the
last cycle of a frame shows BUSY = 0. -/
def Obligations.StatusReadLatency : Prop :=
  (∀ (s : State) (p q : Ports) (rest : List Ports), s.hostQueue = p :: q :: rest → WritesCommand p 0x00000005#32 →
    busy (tick s) = false → (tick s).isOpen = true → q.rst = false → q.req = true → q.we = false →
    admitted q = some .status → ∃ u, Runs 2 s u ∧ u.busRdata.getLsbD 1 = true) ∧
  ∀ (s : State) (p : Ports) (rest : List Ports), s.hostQueue = p :: rest → p.rst = false → p.req = true →
    p.we = false → admitted p = some .status → LastCycle s → ∃ t, step s = .next t ∧ t.busRdata.getLsbD 1 = false

/-! ## Errors -/

/-- 60_exceptions.md R220, R221: only an access raises an error; a cycle that sets an ERR bit sets exactly one, and its state
is the ticked state with that bit set and nothing else; raising an error whose bit is already 1 leaves it 1. -/
def Obligations.RefusedAccessHasNoOtherEffect : Prop :=
  (∀ s : State, (tick s).err = s.err) ∧
  (∀ (e : ErrBit) (s : State), raise e s = { s with err := (raise e s).err } ∧
    (raise e s).err.getLsbD (errCode e) = true ∧
    ∀ j, j ≠ errCode e → (raise e s).err.getLsbD j = s.err.getLsbD j) ∧
  ∀ (s t : State) (k : Nat), step s = .next t → s.err.getLsbD k = false → t.err.getLsbD k = true →
    (currentPorts s).req = true ∧ (currentPorts s).rst = false ∧
    ∃ e, errCode e = k ∧ t = raise e (tick (nextCycle s)) ∧ ∀ j, j ≠ k → t.err.getLsbD j = s.err.getLsbD j

/-- 60_exceptions.md R234: an ERR bit is cleared only by a host write of 1 to it or by reset; a second error of a kind leaves
the bit 1; errors of different kinds accumulate; after any error every command remains available. -/
def Obligations.ErrorBitsAreSticky : Prop :=
  (∀ (e : ErrBit) (s : State), raise e (raise e s) = raise e s) ∧
  (∀ (e f : ErrBit) (s : State), e ≠ f →
    (raise e (raise f s)).err.getLsbD (errCode e) = true ∧ (raise e (raise f s)).err.getLsbD (errCode f) = true) ∧
  (∀ (i : Instr) (e : ErrBit) (s : State), ∃ t, exec i (raise e s) = .next t) ∧
  ∀ (s t : State) (k : Nat), step s = .next t → s.err.getLsbD k = true → t.err.getLsbD k = false →
    let p := currentPorts s
    p.rst = true ∨ (p.req = true ∧ p.we = true ∧ admitted p = some .err ∧ p.wdata.getLsbD k = true)

/-- 60_exceptions.md R225: with BUSY = 1 these commands and writes raise BUSY and nothing else; NOP, CLOSE, reads, and writes to
CTRL, ERR, SERIAL, ADDR or a read-only register never raise it. -/
def Obligations.BusyRefusals : Prop :=
  ∀ s : State, busy s = true →
    let refused : Host.Outcome State Fault Refusal := .next { s with err := s.err ||| 0x08#8 }
    exec .openPort s = refused ∧ exec .buildProg s = refused ∧ (∀ g, exec (.buildInd g) s = refused) ∧
    exec .send s = refused ∧
    (∀ w, hostWrite .baudDiv w s = refused ∧ hostWrite .brkUs w s = refused ∧ hostWrite .mabUs w s = refused ∧
      ∀ i, hostWrite (.frame i) w s = refused) ∧
    exec .nop s = .next s ∧
    (∀ t, exec .closePort s = .next t → t.err.getLsbD 3 = s.err.getLsbD 3) ∧
    (∀ r, (hostRead r s).err = s.err) ∧
    (∀ w t, hostWrite .ctrl w s = .next t ∨ hostWrite .serial w s = .next t ∨ hostWrite .addr w s = .next t ∨
      hostWrite .status w s = .next t ∨ hostWrite .frameCnt w s = .next t ∨ hostWrite .format w s = .next t ∨
      hostWrite .cksum w s = .next t → t.err = s.err) ∧
    (∀ w t, hostWrite .err w s = .next t → t.err.getLsbD 3 = true → s.err.getLsbD 3 = true)

/-- 60_exceptions.md section 3, which marks this as derived: the first error that applies wins and is the only one raised; the end of a frame in the same cycle
is applied before the access; a reset discards the access. -/
def Obligations.ErrorPriority : Prop :=
  (∀ (s : State) (p : Ports), p.req = true → admitted p = none → access p s = .next (raise .bus s)) ∧
  (∀ (s : State) (w : Word) (why : IllFormed), decode w = .illegal why → hostWrite .cmd w s = .next (raise .badCmd s)) ∧
  (∀ (s : State) (w : Word) (i : Instr), decode w = .command i → busy s = true → i ≠ .nop → i ≠ .closePort →
    hostWrite .cmd w s = .next (raise .busy s)) ∧
  (∀ s : State, busy s = false → s.isOpen = true → exec .openPort s = .next (raise .devOpen s)) ∧
  (∀ s : State, busy s = false → s.isOpen = false → s.baudDiv = 0#16 → exec .openPort s = .next (raise .baud s)) ∧
  (∀ s : State, s.isOpen = false ∨ s.closing = true → exec .closePort s = .next (raise .notOpen s)) ∧
  (∀ s : State, busy s = false → s.isOpen = false → exec .send s = .next (raise .notOpen s)) ∧
  (∀ (s : State) (g : Bool), busy s = false → (s.addr.toNat < 1 ∨ 509 < s.addr.toNat) →
    exec (.buildInd g) s = .next (raise .range s)) ∧
  (∀ (s t : State), busy s = false → exec .buildProg s = .next t → t.err = s.err) ∧
  (∀ (s : State) (w : Word), busy s = true → hostWrite .baudDiv w s = .next (raise .busy s)) ∧
  (∀ (s : State) (w : Word), busy s = false → s.isOpen = true → hostWrite .baudDiv w s = .next (raise .locked s)) ∧
  (∀ (s : State) (w : Word) (i : FrameIndex), busy s = true → hostWrite .brkUs w s = .next (raise .busy s) ∧
    hostWrite .mabUs w s = .next (raise .busy s) ∧ hostWrite (.frame i) w s = .next (raise .busy s)) ∧
  (∀ s : State, (currentPorts s).rst = true → step s = .next (State.afterReset s.draws s.hostQueue.tail)) ∧
  (∀ s : State, (currentPorts s).rst = false → LastCycle s →
    ∃ u, busy u = false ∧ u.frameCnt = s.frameCnt + 1#32 ∧ step s = access (currentPorts s) u)

/-! ## The whole machine -/

/-- 93_implementation_defined.md section 5: every access in every state has a next state; no cycle stops the block. -/
def Obligations.EveryCycleHasNextState : Prop :=
  (∀ s : State, ∃ t, step s = .next t) ∧ ∀ (k : Nat) (s : State), ∃ t, Runs k s t

/-- 10_state.md section 4, which marks this as derived: the invariants (a) to (f) hold after reset and every cycle keeps them, from every state that meets them. -/
def Obligations.StepKeepsStatusInvariants : Prop :=
  StatusInv State.reset ∧ (∀ s t : State, StatusInv s → step s = .next t → StatusInv t) ∧
  ∀ (k : Nat) (s t : State), StatusInv s → Runs k s t → StatusInv t

/-- 10_state.md section 10 and 42_serializer.md section 4 (derived there): REM stays between 1 and the reload value of the running timer, and is 0 while
idle. -/
def Obligations.StepKeepsTimerInRange : Prop :=
  ∀ s t : State, StatusInv s → TimerInv s → step s = .next t → TimerInv t

/-- The frame buffer keeps its canonical form (the model's own representation, log 5): over every step, and over a host write
of any word to any FB[i], accepted or refused. -/
def Obligations.StepKeepsFrameBufferCanonical : Prop :=
  (∀ (s t : State) (i : FrameIndex) (w : Word), s.fb.wf = true → hostWrite (.frame i) w s = .next t → t.fb.wf = true) ∧
  ∀ s t : State, s.fb.wf = true → step s = .next t → t.fb.wf = true

/-- 10_state.md R31: OPEN is set only by an accepted OPEN command, and cleared only by a CLOSE command, by the end of a frame
while CLOSING is 1, or by reset; while it is 1 every OPEN is refused and changes only ERR. -/
def Obligations.OpenBitChangesOnlyByOpenAndClose : Prop :=
  (∀ s : State, s.isOpen = true →
    ∃ e, (e = .busy ∨ e = .devOpen) ∧ exec .openPort s = .next (raise e s)) ∧
  ∀ s t : State, step s = .next t →
    let p := currentPorts s
    (s.isOpen = false → t.isOpen = true →
      WritesCommand p 0x00000001#32 ∧ busy (tick s) = false ∧ s.baudDiv ≠ 0#16 ∧ t.rts = false) ∧
    (s.isOpen = true → t.isOpen = false →
      WritesCommand p 0x00000002#32 ∨ (LastCycle s ∧ s.closing = true) ∨ p.rst = true)

/-- 10_state.md R42: FRAMECNT is one larger, modulo 2^32, after the last cycle of a frame, cleared by reset, and unchanged in
every other cycle; it is bits 31:0 and read-only. -/
def Obligations.FrameCountAdvancesOnlyAtFrameEnd : Prop :=
  (∀ (s : State) (w : Word), readReg .frameCnt s = s.frameCnt ∧ hostWrite .frameCnt w s = .next s) ∧
  ∀ s t : State, step s = .next t →
    ((currentPorts s).rst = true → t.frameCnt = 0#32) ∧
    ((currentPorts s).rst = false → LastCycle s → t.frameCnt.toNat = (s.frameCnt.toNat + 1) % 2 ^ 32) ∧
    ((currentPorts s).rst = false → ¬LastCycle s → t.frameCnt = s.frameCnt)

/-- 10_state.md R44: CKSUM changes only by a BUILD_PROG command, which leaves the two checksum bytes there, or by reset to 0;
CK1 is bits 7:0 and CK2 bits 15:8; it is read-only. -/
def Obligations.ChecksumRegisterChangesOnlyByBuildProg : Prop :=
  (∀ s t : State, step s = .next t → (t.ck1 ≠ s.ck1 ∨ t.ck2 ≠ s.ck2) →
    ((currentPorts s).rst = true ∧ t.ck1 = 0#8 ∧ t.ck2 = 0#8) ∨
    (WritesCommand (currentPorts s) 0x00000003#32 ∧ busy (tick s) = false ∧ t.ck1 = checksum1 s.serial s.addr ∧
      t.ck2 = checksum2 s.serial s.addr)) ∧
  (∀ s : State, WritesCommand (currentPorts s) 0x00000003#32 → busy (tick s) = false →
    ∃ t, step s = .next t ∧ t.ck1 = checksum1 s.serial s.addr ∧ t.ck2 = checksum2 s.serial s.addr) ∧
  (∀ s : State, (readReg .cksum s).extractLsb' 0 8 = s.ck1 ∧ (readReg .cksum s).extractLsb' 8 8 = s.ck2) ∧
  (∀ (s : State) (w : Word), hostWrite .cksum w s = .next s) ∧ State.reset.ck1 = 0#8 ∧ State.reset.ck2 = 0#8

/-- 20_memory.md section 6, which marks this as derived: while the serializer is busy, no cycle without reset changes the frame buffer, BAUDDIV, BRK_US or
MAB_US. -/
def Obligations.FrameInputsAreFixedWhileBusy : Prop :=
  ∀ s t : State, step s = .next t → (currentPorts s).rst = false → busy (tick s) = true →
    t.fb = s.fb ∧ t.baudDiv = s.baudDiv ∧ t.brkUs = s.brkUs ∧ t.mabUs = s.mabUs
end

