-- ==== Sys2Proof/Laws/Decode.lean ====
section
/-! SUPPORT. What a command word is made of: its fields determine it where the reserved bits are 0. -/

namespace Sys2Proof

theorem reserved_bit_clear {w : Word} (h : w &&& reservedMask = 0#32) {k : Nat} (hk : reservedMask.getLsbD k = true) :
    w.getLsbD k = false := by
  have := congrArg (fun v : Word => v.getLsbD k) h
  simpa [hk] using this

/-- With the reserved bits 0 a word is its opcode and its flag G (30_encoding.md R100). -/
theorem word_of_fields {w : Word} (h : w &&& reservedMask = 0#32) :
    w = (opField w).setWidth 32 ||| (if greenField w then 0x00000100#32 else 0#32) := by
  apply BitVec.eq_of_getLsbD_eq
  intro k hk
  have hres : reservedMask.getLsbD k = true → w.getLsbD k = false := reserved_bit_clear h
  by_cases hg : w.getLsbD 8 = true
  · simp only [greenField, hg, if_true]
    interval_cases k <;> simp_all [opField, reservedMask]
  · simp only [greenField, hg]
    interval_cases k <;> simp_all [opField, reservedMask]

/-- The three tests of R101 say of a word exactly that it is no command. -/
theorem decode_illegal_iff {w : Word} :
    (∃ why, decode w = .illegal why) ↔
      w &&& reservedMask ≠ 0#32 ∨ 6 ≤ (opField w).toNat ∨ (greenField w = true ∧ (opField w).toNat ≠ 4) := by
  unfold decode
  split
  · next h => simp [h]
  · next h =>
    split
    · next h5 => exact ⟨fun _ => .inr (.inl h5), fun _ => ⟨_, rfl⟩⟩
    · next h5 =>
      split
      · next hg => exact ⟨fun _ => .inr (.inr hg), fun _ => ⟨_, rfl⟩⟩
      · next hg =>
        constructor
        · rintro ⟨why, hw⟩
          have h0 : (opField w).toNat ≤ 5 := by omega
          generalize (opField w).toNat = n at hw h0
          interval_cases n <;> cases hw
        · rintro (h' | h' | h')
          · exact absurd h' h
          · omega
          · exact absurd h' hg

end Sys2Proof
end

