-- ==== Sys2Proof/Laws/State.lean ====
section
/-! SUPPORT. One lemma per field per named update of State, each true by rfl, so that no later proof unfolds an update. -/

namespace Sys2Proof.Machine

@[simp] theorem raise_rts (e : ErrBit) (s : State) : (raise e s).rts = s.rts := rfl
@[simp] theorem raise_isOpen (e : ErrBit) (s : State) : (raise e s).isOpen = s.isOpen := rfl
@[simp] theorem raise_closing (e : ErrBit) (s : State) : (raise e s).closing = s.closing := rfl
@[simp] theorem raise_phase (e : ErrBit) (s : State) : (raise e s).phase = s.phase := rfl
@[simp] theorem raise_rem (e : ErrBit) (s : State) : (raise e s).rem = s.rem := rfl
@[simp] theorem raise_bit (e : ErrBit) (s : State) : (raise e s).bit = s.bit := rfl
@[simp] theorem raise_byte (e : ErrBit) (s : State) : (raise e s).byte = s.byte := rfl
@[simp] theorem raise_err (e : ErrBit) (s : State) : (raise e s).err = s.err ||| errMask e := rfl
@[simp] theorem raise_baudDiv (e : ErrBit) (s : State) : (raise e s).baudDiv = s.baudDiv := rfl
@[simp] theorem raise_brkUs (e : ErrBit) (s : State) : (raise e s).brkUs = s.brkUs := rfl
@[simp] theorem raise_mabUs (e : ErrBit) (s : State) : (raise e s).mabUs = s.mabUs := rfl
@[simp] theorem raise_serial (e : ErrBit) (s : State) : (raise e s).serial = s.serial := rfl
@[simp] theorem raise_addr (e : ErrBit) (s : State) : (raise e s).addr = s.addr := rfl
@[simp] theorem raise_frameCnt (e : ErrBit) (s : State) : (raise e s).frameCnt = s.frameCnt := rfl
@[simp] theorem raise_ck1 (e : ErrBit) (s : State) : (raise e s).ck1 = s.ck1 := rfl
@[simp] theorem raise_ck2 (e : ErrBit) (s : State) : (raise e s).ck2 = s.ck2 := rfl
@[simp] theorem raise_fb (e : ErrBit) (s : State) : (raise e s).fb = s.fb := rfl
@[simp] theorem raise_busRdata (e : ErrBit) (s : State) : (raise e s).busRdata = s.busRdata := rfl
@[simp] theorem raise_hostQueue (e : ErrBit) (s : State) : (raise e s).hostQueue = s.hostQueue := rfl
@[simp] theorem raise_draws (e : ErrBit) (s : State) : (raise e s).draws = s.draws := rfl
@[simp] theorem busy_raise (e : ErrBit) (s : State) : busy (raise e s) = busy s := rfl

@[simp] theorem clearErr_rts (m : BitVec 8) (s : State) : (clearErr m s).rts = s.rts := rfl
@[simp] theorem clearErr_isOpen (m : BitVec 8) (s : State) : (clearErr m s).isOpen = s.isOpen := rfl
@[simp] theorem clearErr_closing (m : BitVec 8) (s : State) : (clearErr m s).closing = s.closing := rfl
@[simp] theorem clearErr_phase (m : BitVec 8) (s : State) : (clearErr m s).phase = s.phase := rfl
@[simp] theorem clearErr_rem (m : BitVec 8) (s : State) : (clearErr m s).rem = s.rem := rfl
@[simp] theorem clearErr_bit (m : BitVec 8) (s : State) : (clearErr m s).bit = s.bit := rfl
@[simp] theorem clearErr_byte (m : BitVec 8) (s : State) : (clearErr m s).byte = s.byte := rfl
@[simp] theorem clearErr_err (m : BitVec 8) (s : State) : (clearErr m s).err = s.err &&& ~~~m := rfl
@[simp] theorem clearErr_baudDiv (m : BitVec 8) (s : State) : (clearErr m s).baudDiv = s.baudDiv := rfl
@[simp] theorem clearErr_brkUs (m : BitVec 8) (s : State) : (clearErr m s).brkUs = s.brkUs := rfl
@[simp] theorem clearErr_mabUs (m : BitVec 8) (s : State) : (clearErr m s).mabUs = s.mabUs := rfl
@[simp] theorem clearErr_serial (m : BitVec 8) (s : State) : (clearErr m s).serial = s.serial := rfl
@[simp] theorem clearErr_addr (m : BitVec 8) (s : State) : (clearErr m s).addr = s.addr := rfl
@[simp] theorem clearErr_frameCnt (m : BitVec 8) (s : State) : (clearErr m s).frameCnt = s.frameCnt := rfl
@[simp] theorem clearErr_ck1 (m : BitVec 8) (s : State) : (clearErr m s).ck1 = s.ck1 := rfl
@[simp] theorem clearErr_ck2 (m : BitVec 8) (s : State) : (clearErr m s).ck2 = s.ck2 := rfl
@[simp] theorem clearErr_fb (m : BitVec 8) (s : State) : (clearErr m s).fb = s.fb := rfl
@[simp] theorem clearErr_busRdata (m : BitVec 8) (s : State) : (clearErr m s).busRdata = s.busRdata := rfl
@[simp] theorem clearErr_hostQueue (m : BitVec 8) (s : State) : (clearErr m s).hostQueue = s.hostQueue := rfl
@[simp] theorem clearErr_draws (m : BitVec 8) (s : State) : (clearErr m s).draws = s.draws := rfl
@[simp] theorem busy_clearErr (m : BitVec 8) (s : State) : busy (clearErr m s) = busy s := rfl

@[simp] theorem loadSegment_rts (p : Phase) (n : Nat) (b : Fin 11) (y : FrameIndex) (s : State) : (loadSegment p n b y s).rts = s.rts := rfl
@[simp] theorem loadSegment_isOpen (p : Phase) (n : Nat) (b : Fin 11) (y : FrameIndex) (s : State) : (loadSegment p n b y s).isOpen = s.isOpen := rfl
@[simp] theorem loadSegment_closing (p : Phase) (n : Nat) (b : Fin 11) (y : FrameIndex) (s : State) : (loadSegment p n b y s).closing = s.closing := rfl
@[simp] theorem loadSegment_phase (p : Phase) (n : Nat) (b : Fin 11) (y : FrameIndex) (s : State) : (loadSegment p n b y s).phase = p := rfl
@[simp] theorem loadSegment_rem (p : Phase) (n : Nat) (b : Fin 11) (y : FrameIndex) (s : State) : (loadSegment p n b y s).rem = n := rfl
@[simp] theorem loadSegment_bit (p : Phase) (n : Nat) (b : Fin 11) (y : FrameIndex) (s : State) : (loadSegment p n b y s).bit = b := rfl
@[simp] theorem loadSegment_byte (p : Phase) (n : Nat) (b : Fin 11) (y : FrameIndex) (s : State) : (loadSegment p n b y s).byte = y := rfl
@[simp] theorem loadSegment_err (p : Phase) (n : Nat) (b : Fin 11) (y : FrameIndex) (s : State) : (loadSegment p n b y s).err = s.err := rfl
@[simp] theorem loadSegment_baudDiv (p : Phase) (n : Nat) (b : Fin 11) (y : FrameIndex) (s : State) : (loadSegment p n b y s).baudDiv = s.baudDiv := rfl
@[simp] theorem loadSegment_brkUs (p : Phase) (n : Nat) (b : Fin 11) (y : FrameIndex) (s : State) : (loadSegment p n b y s).brkUs = s.brkUs := rfl
@[simp] theorem loadSegment_mabUs (p : Phase) (n : Nat) (b : Fin 11) (y : FrameIndex) (s : State) : (loadSegment p n b y s).mabUs = s.mabUs := rfl
@[simp] theorem loadSegment_serial (p : Phase) (n : Nat) (b : Fin 11) (y : FrameIndex) (s : State) : (loadSegment p n b y s).serial = s.serial := rfl
@[simp] theorem loadSegment_addr (p : Phase) (n : Nat) (b : Fin 11) (y : FrameIndex) (s : State) : (loadSegment p n b y s).addr = s.addr := rfl
@[simp] theorem loadSegment_frameCnt (p : Phase) (n : Nat) (b : Fin 11) (y : FrameIndex) (s : State) : (loadSegment p n b y s).frameCnt = s.frameCnt := rfl
@[simp] theorem loadSegment_ck1 (p : Phase) (n : Nat) (b : Fin 11) (y : FrameIndex) (s : State) : (loadSegment p n b y s).ck1 = s.ck1 := rfl
@[simp] theorem loadSegment_ck2 (p : Phase) (n : Nat) (b : Fin 11) (y : FrameIndex) (s : State) : (loadSegment p n b y s).ck2 = s.ck2 := rfl
@[simp] theorem loadSegment_fb (p : Phase) (n : Nat) (b : Fin 11) (y : FrameIndex) (s : State) : (loadSegment p n b y s).fb = s.fb := rfl
@[simp] theorem loadSegment_busRdata (p : Phase) (n : Nat) (b : Fin 11) (y : FrameIndex) (s : State) : (loadSegment p n b y s).busRdata = s.busRdata := rfl
@[simp] theorem loadSegment_hostQueue (p : Phase) (n : Nat) (b : Fin 11) (y : FrameIndex) (s : State) : (loadSegment p n b y s).hostQueue = s.hostQueue := rfl
@[simp] theorem loadSegment_draws (p : Phase) (n : Nat) (b : Fin 11) (y : FrameIndex) (s : State) : (loadSegment p n b y s).draws = s.draws := rfl
@[simp] theorem busy_loadSegment (p : Phase) (n : Nat) (b : Fin 11) (y : FrameIndex) (s : State) : busy (loadSegment p n b y s) = decide (p ≠ .idle) := rfl

@[simp] theorem putFrame_rts (f : Nat → Byte) (s : State) : (putFrame f s).rts = s.rts := rfl
@[simp] theorem putFrame_isOpen (f : Nat → Byte) (s : State) : (putFrame f s).isOpen = s.isOpen := rfl
@[simp] theorem putFrame_closing (f : Nat → Byte) (s : State) : (putFrame f s).closing = s.closing := rfl
@[simp] theorem putFrame_phase (f : Nat → Byte) (s : State) : (putFrame f s).phase = s.phase := rfl
@[simp] theorem putFrame_rem (f : Nat → Byte) (s : State) : (putFrame f s).rem = s.rem := rfl
@[simp] theorem putFrame_bit (f : Nat → Byte) (s : State) : (putFrame f s).bit = s.bit := rfl
@[simp] theorem putFrame_byte (f : Nat → Byte) (s : State) : (putFrame f s).byte = s.byte := rfl
@[simp] theorem putFrame_err (f : Nat → Byte) (s : State) : (putFrame f s).err = s.err := rfl
@[simp] theorem putFrame_baudDiv (f : Nat → Byte) (s : State) : (putFrame f s).baudDiv = s.baudDiv := rfl
@[simp] theorem putFrame_brkUs (f : Nat → Byte) (s : State) : (putFrame f s).brkUs = s.brkUs := rfl
@[simp] theorem putFrame_mabUs (f : Nat → Byte) (s : State) : (putFrame f s).mabUs = s.mabUs := rfl
@[simp] theorem putFrame_serial (f : Nat → Byte) (s : State) : (putFrame f s).serial = s.serial := rfl
@[simp] theorem putFrame_addr (f : Nat → Byte) (s : State) : (putFrame f s).addr = s.addr := rfl
@[simp] theorem putFrame_frameCnt (f : Nat → Byte) (s : State) : (putFrame f s).frameCnt = s.frameCnt := rfl
@[simp] theorem putFrame_ck1 (f : Nat → Byte) (s : State) : (putFrame f s).ck1 = s.ck1 := rfl
@[simp] theorem putFrame_ck2 (f : Nat → Byte) (s : State) : (putFrame f s).ck2 = s.ck2 := rfl
@[simp] theorem putFrame_fb (f : Nat → Byte) (s : State) : (putFrame f s).fb = Memory.ofBytes f := rfl
@[simp] theorem putFrame_busRdata (f : Nat → Byte) (s : State) : (putFrame f s).busRdata = s.busRdata := rfl
@[simp] theorem putFrame_hostQueue (f : Nat → Byte) (s : State) : (putFrame f s).hostQueue = s.hostQueue := rfl
@[simp] theorem putFrame_draws (f : Nat → Byte) (s : State) : (putFrame f s).draws = s.draws := rfl
@[simp] theorem busy_putFrame (f : Nat → Byte) (s : State) : busy (putFrame f s) = busy s := rfl

@[simp] theorem putChecksum_rts (c d : Byte) (s : State) : (putChecksum c d s).rts = s.rts := rfl
@[simp] theorem putChecksum_isOpen (c d : Byte) (s : State) : (putChecksum c d s).isOpen = s.isOpen := rfl
@[simp] theorem putChecksum_closing (c d : Byte) (s : State) : (putChecksum c d s).closing = s.closing := rfl
@[simp] theorem putChecksum_phase (c d : Byte) (s : State) : (putChecksum c d s).phase = s.phase := rfl
@[simp] theorem putChecksum_rem (c d : Byte) (s : State) : (putChecksum c d s).rem = s.rem := rfl
@[simp] theorem putChecksum_bit (c d : Byte) (s : State) : (putChecksum c d s).bit = s.bit := rfl
@[simp] theorem putChecksum_byte (c d : Byte) (s : State) : (putChecksum c d s).byte = s.byte := rfl
@[simp] theorem putChecksum_err (c d : Byte) (s : State) : (putChecksum c d s).err = s.err := rfl
@[simp] theorem putChecksum_baudDiv (c d : Byte) (s : State) : (putChecksum c d s).baudDiv = s.baudDiv := rfl
@[simp] theorem putChecksum_brkUs (c d : Byte) (s : State) : (putChecksum c d s).brkUs = s.brkUs := rfl
@[simp] theorem putChecksum_mabUs (c d : Byte) (s : State) : (putChecksum c d s).mabUs = s.mabUs := rfl
@[simp] theorem putChecksum_serial (c d : Byte) (s : State) : (putChecksum c d s).serial = s.serial := rfl
@[simp] theorem putChecksum_addr (c d : Byte) (s : State) : (putChecksum c d s).addr = s.addr := rfl
@[simp] theorem putChecksum_frameCnt (c d : Byte) (s : State) : (putChecksum c d s).frameCnt = s.frameCnt := rfl
@[simp] theorem putChecksum_ck1 (c d : Byte) (s : State) : (putChecksum c d s).ck1 = c := rfl
@[simp] theorem putChecksum_ck2 (c d : Byte) (s : State) : (putChecksum c d s).ck2 = d := rfl
@[simp] theorem putChecksum_fb (c d : Byte) (s : State) : (putChecksum c d s).fb = s.fb := rfl
@[simp] theorem putChecksum_busRdata (c d : Byte) (s : State) : (putChecksum c d s).busRdata = s.busRdata := rfl
@[simp] theorem putChecksum_hostQueue (c d : Byte) (s : State) : (putChecksum c d s).hostQueue = s.hostQueue := rfl
@[simp] theorem putChecksum_draws (c d : Byte) (s : State) : (putChecksum c d s).draws = s.draws := rfl
@[simp] theorem busy_putChecksum (c d : Byte) (s : State) : busy (putChecksum c d s) = busy s := rfl

@[simp] theorem nextCycle_rts (s : State) : (nextCycle s).rts = s.rts := rfl
@[simp] theorem nextCycle_isOpen (s : State) : (nextCycle s).isOpen = s.isOpen := rfl
@[simp] theorem nextCycle_closing (s : State) : (nextCycle s).closing = s.closing := rfl
@[simp] theorem nextCycle_phase (s : State) : (nextCycle s).phase = s.phase := rfl
@[simp] theorem nextCycle_rem (s : State) : (nextCycle s).rem = s.rem := rfl
@[simp] theorem nextCycle_bit (s : State) : (nextCycle s).bit = s.bit := rfl
@[simp] theorem nextCycle_byte (s : State) : (nextCycle s).byte = s.byte := rfl
@[simp] theorem nextCycle_err (s : State) : (nextCycle s).err = s.err := rfl
@[simp] theorem nextCycle_baudDiv (s : State) : (nextCycle s).baudDiv = s.baudDiv := rfl
@[simp] theorem nextCycle_brkUs (s : State) : (nextCycle s).brkUs = s.brkUs := rfl
@[simp] theorem nextCycle_mabUs (s : State) : (nextCycle s).mabUs = s.mabUs := rfl
@[simp] theorem nextCycle_serial (s : State) : (nextCycle s).serial = s.serial := rfl
@[simp] theorem nextCycle_addr (s : State) : (nextCycle s).addr = s.addr := rfl
@[simp] theorem nextCycle_frameCnt (s : State) : (nextCycle s).frameCnt = s.frameCnt := rfl
@[simp] theorem nextCycle_ck1 (s : State) : (nextCycle s).ck1 = s.ck1 := rfl
@[simp] theorem nextCycle_ck2 (s : State) : (nextCycle s).ck2 = s.ck2 := rfl
@[simp] theorem nextCycle_fb (s : State) : (nextCycle s).fb = s.fb := rfl
@[simp] theorem nextCycle_busRdata (s : State) : (nextCycle s).busRdata = 0#32 := rfl
@[simp] theorem nextCycle_hostQueue (s : State) : (nextCycle s).hostQueue = s.hostQueue.tail := rfl
@[simp] theorem nextCycle_draws (s : State) : (nextCycle s).draws = s.draws := rfl
@[simp] theorem busy_nextCycle (s : State) : busy (nextCycle s) = busy s := rfl

@[simp] theorem hostRead_rts (r : Reg) (s : State) : (hostRead r s).rts = s.rts := rfl
@[simp] theorem hostRead_isOpen (r : Reg) (s : State) : (hostRead r s).isOpen = s.isOpen := rfl
@[simp] theorem hostRead_closing (r : Reg) (s : State) : (hostRead r s).closing = s.closing := rfl
@[simp] theorem hostRead_phase (r : Reg) (s : State) : (hostRead r s).phase = s.phase := rfl
@[simp] theorem hostRead_rem (r : Reg) (s : State) : (hostRead r s).rem = s.rem := rfl
@[simp] theorem hostRead_bit (r : Reg) (s : State) : (hostRead r s).bit = s.bit := rfl
@[simp] theorem hostRead_byte (r : Reg) (s : State) : (hostRead r s).byte = s.byte := rfl
@[simp] theorem hostRead_err (r : Reg) (s : State) : (hostRead r s).err = s.err := rfl
@[simp] theorem hostRead_baudDiv (r : Reg) (s : State) : (hostRead r s).baudDiv = s.baudDiv := rfl
@[simp] theorem hostRead_brkUs (r : Reg) (s : State) : (hostRead r s).brkUs = s.brkUs := rfl
@[simp] theorem hostRead_mabUs (r : Reg) (s : State) : (hostRead r s).mabUs = s.mabUs := rfl
@[simp] theorem hostRead_serial (r : Reg) (s : State) : (hostRead r s).serial = s.serial := rfl
@[simp] theorem hostRead_addr (r : Reg) (s : State) : (hostRead r s).addr = s.addr := rfl
@[simp] theorem hostRead_frameCnt (r : Reg) (s : State) : (hostRead r s).frameCnt = s.frameCnt := rfl
@[simp] theorem hostRead_ck1 (r : Reg) (s : State) : (hostRead r s).ck1 = s.ck1 := rfl
@[simp] theorem hostRead_ck2 (r : Reg) (s : State) : (hostRead r s).ck2 = s.ck2 := rfl
@[simp] theorem hostRead_fb (r : Reg) (s : State) : (hostRead r s).fb = s.fb := rfl
@[simp] theorem hostRead_busRdata (r : Reg) (s : State) : (hostRead r s).busRdata = readReg r s := rfl
@[simp] theorem hostRead_hostQueue (r : Reg) (s : State) : (hostRead r s).hostQueue = s.hostQueue := rfl
@[simp] theorem hostRead_draws (r : Reg) (s : State) : (hostRead r s).draws = s.draws := rfl
@[simp] theorem busy_hostRead (r : Reg) (s : State) : busy (hostRead r s) = busy s := rfl

theorem busy_eq_true {s : State} : busy s = true ↔ s.phase ≠ .idle := by simp [busy]

theorem busy_eq_false {s : State} : busy s = false ↔ s.phase = .idle := by simp [busy]

end Sys2Proof.Machine
end

