-- ==== Sys2Proof/Laws/Ops.lean ====
section
/-! SUPPORT. What each shared operation can do. -/

namespace Sys2Proof.Machine

/-- The busy interlock: refused with Err(BUSY) and nothing else, or performed. -/
theorem unlessBusy_cases (act : State → State) (s : State) :
    (busy s = true ∧ unlessBusy act s = raise .busy s) ∨ (busy s = false ∧ unlessBusy act s = act s) := by
  cases h : busy s <;> simp [unlessBusy, h]

theorem unlessBusy_busy {act : State → State} {s : State} (h : busy s = true) :
    unlessBusy act s = raise .busy s := by simp [unlessBusy, h]

theorem unlessBusy_idle {act : State → State} {s : State} (h : busy s = false) : unlessBusy act s = act s := by
  simp [unlessBusy, h]

/-- Raising an error sets its bit. -/
theorem raise_sets (e : ErrBit) (s : State) : (raise e s).err.getLsbD (errCode e) = true := by
  cases e <;> simp [errMask, errCode]

/-- Raising an error leaves every other bit of ERR. -/
theorem raise_other {e : ErrBit} {s : State} {k : Nat} (h : k ≠ errCode e) :
    (raise e s).err.getLsbD k = s.err.getLsbD k := by
  rcases Nat.lt_or_ge k 8 with hk | hk
  · cases e <;> interval_cases k <;> simp_all [errMask, errCode]
  · simp [BitVec.getLsbD_of_ge, hk]

/-- Clearing ERR clears the bits of the mask and leaves the others. -/
theorem clearErr_getLsbD (m : BitVec 8) (s : State) {k : Nat} (hk : k < 8) :
    (clearErr m s).err.getLsbD k = (s.err.getLsbD k && !m.getLsbD k) := by
  simp [hk]

/-- Raising an error twice is raising it once. -/
theorem raise_raise (e : ErrBit) (s : State) : raise e (raise e s) = raise e s := by
  simp [raise, BitVec.or_assoc]

end Sys2Proof.Machine
end

