-- ==== Sys2Proof/Laws/Serializer.lean ====
section
/-! SUPPORT. What a tick can do, said once: it stands still in IDLE, counts down, or moves to the next segment
(42_serializer.md R181 to R186). -/

namespace Sys2Proof.Machine

theorem tick_idle {s : State} (h : s.phase = .idle) : tick s = s := by simp [tick, busy, h]

/-- REM counts down while more than one cycle is left. -/
theorem tick_count {s : State} (h : s.phase ≠ .idle) (hr : 1 < s.rem) : tick s = { s with rem := s.rem - 1 } := by
  simp [tick, busy, h, countDown, hr]

theorem tick_brk {s : State} (h : s.phase = .brk) (hr : s.rem ≤ 1) :
    tick s = { s with phase := .mab, rem := mabCycles s } := by
  simp [tick, busy, h, countDown, Nat.not_lt.2 hr, nextSegment, loadSegment]

theorem tick_mab {s : State} (h : s.phase = .mab) (hr : s.rem ≤ 1) :
    tick s = { s with phase := .data, rem := bitCycles s, bit := 0, byte := 0 } := by
  simp [tick, busy, h, countDown, Nat.not_lt.2 hr, nextSegment, loadSegment]

theorem tick_bit {s : State} (h : s.phase = .data) (hr : s.rem ≤ 1) (hb : s.bit.val < 10) :
    tick s = { s with rem := bitCycles s, bit := ⟨s.bit.val + 1, by omega⟩ } := by
  simp [tick, busy, h, countDown, Nat.not_lt.2 hr, nextSegment, nextBit, hb, loadSegment]

theorem tick_slot {s : State} (h : s.phase = .data) (hr : s.rem ≤ 1) (hb : s.bit.val = 10) (hy : s.byte.val < 512) :
    tick s = { s with rem := bitCycles s, bit := 0, byte := ⟨s.byte.val + 1, by omega⟩ } := by
  simp [tick, busy, h, countDown, Nat.not_lt.2 hr, nextSegment, nextBit, hb, hy, loadSegment]

/-- The end of a frame (R186). -/
theorem tick_end {s : State} (h : LastCycle s) :
    tick s = { s with phase := .idle, rem := 0, bit := 0, byte := 0, frameCnt := s.frameCnt + 1#32,
                      closing := false, isOpen := s.isOpen && !s.closing } := by
  obtain ⟨hp, hr, hb, hy⟩ := h
  cases hc : s.closing <;>
    simp [tick, busy, hp, countDown, Nat.not_lt.2 hr, nextSegment, nextBit, hb, hy, loadSegment, endFrame, finishClose, hc]

theorem phase_cases (p : Phase) : p = .idle ∨ p = .brk ∨ p = .mab ∨ p = .data := by cases p <;> simp

/-- Everything a tick can do. -/
theorem tick_cases (s : State) :
    (s.phase = .idle ∧ tick s = s) ∨
    (s.phase ≠ .idle ∧ 1 < s.rem ∧ tick s = { s with rem := s.rem - 1 }) ∨
    (s.phase = .brk ∧ s.rem ≤ 1 ∧ tick s = { s with phase := .mab, rem := mabCycles s }) ∨
    (s.phase = .mab ∧ s.rem ≤ 1 ∧ tick s = { s with phase := .data, rem := bitCycles s, bit := 0, byte := 0 }) ∨
    (∃ hb : s.bit.val < 10, s.phase = .data ∧ s.rem ≤ 1 ∧
      tick s = { s with rem := bitCycles s, bit := ⟨s.bit.val + 1, by omega⟩ }) ∨
    (∃ hy : s.byte.val < 512, s.phase = .data ∧ s.rem ≤ 1 ∧ s.bit.val = 10 ∧
      tick s = { s with rem := bitCycles s, bit := 0, byte := ⟨s.byte.val + 1, by omega⟩ }) ∨
    (LastCycle s ∧
      tick s = { s with phase := .idle, rem := 0, bit := 0, byte := 0, frameCnt := s.frameCnt + 1#32,
                        closing := false, isOpen := s.isOpen && !s.closing }) := by
  by_cases hi : s.phase = .idle
  · exact .inl ⟨hi, tick_idle hi⟩
  rcases Nat.lt_or_ge 1 s.rem with hr | hr
  · exact .inr (.inl ⟨hi, hr, tick_count hi hr⟩)
  rcases phase_cases s.phase with hp | hp | hp | hp
  · exact absurd hp hi
  · exact .inr (.inr (.inl ⟨hp, hr, tick_brk hp hr⟩))
  · exact .inr (.inr (.inr (.inl ⟨hp, hr, tick_mab hp hr⟩)))
  · rcases Nat.lt_or_ge s.bit.val 10 with hb | hb
    · exact .inr (.inr (.inr (.inr (.inl ⟨hb, hp, hr, tick_bit hp hr hb⟩))))
    have hb : s.bit.val = 10 := by omega
    rcases Nat.lt_or_ge s.byte.val 512 with hy | hy
    · exact .inr (.inr (.inr (.inr (.inr (.inl ⟨hy, hp, hr, hb, tick_slot hp hr hb hy⟩)))))
    have hlast : LastCycle s := ⟨hp, hr, hb, by omega⟩
    exact .inr (.inr (.inr (.inr (.inr (.inr ⟨hlast, tick_end hlast⟩)))))

/-- The fields a tick may change are those of R180. -/
theorem tick_frame (s : State) :
    tick s = { s with phase := (tick s).phase, rem := (tick s).rem, bit := (tick s).bit, byte := (tick s).byte,
                      frameCnt := (tick s).frameCnt, isOpen := (tick s).isOpen, closing := (tick s).closing } := by
  rcases tick_cases s with ⟨-, h⟩ | ⟨-, -, h⟩ | ⟨-, -, h⟩ | ⟨-, -, h⟩ | ⟨_, -, -, h⟩ | ⟨_, -, -, -, h⟩ | ⟨-, h⟩ <;> rw [h]

@[simp] theorem tick_rts (s : State) : (tick s).rts = s.rts := by rw [tick_frame]
@[simp] theorem tick_err (s : State) : (tick s).err = s.err := by rw [tick_frame]
@[simp] theorem tick_baudDiv (s : State) : (tick s).baudDiv = s.baudDiv := by rw [tick_frame]
@[simp] theorem tick_brkUs (s : State) : (tick s).brkUs = s.brkUs := by rw [tick_frame]
@[simp] theorem tick_mabUs (s : State) : (tick s).mabUs = s.mabUs := by rw [tick_frame]
@[simp] theorem tick_serial (s : State) : (tick s).serial = s.serial := by rw [tick_frame]
@[simp] theorem tick_addr (s : State) : (tick s).addr = s.addr := by rw [tick_frame]
@[simp] theorem tick_ck1 (s : State) : (tick s).ck1 = s.ck1 := by rw [tick_frame]
@[simp] theorem tick_ck2 (s : State) : (tick s).ck2 = s.ck2 := by rw [tick_frame]
@[simp] theorem tick_fb (s : State) : (tick s).fb = s.fb := by rw [tick_frame]
@[simp] theorem tick_busRdata (s : State) : (tick s).busRdata = s.busRdata := by rw [tick_frame]
@[simp] theorem tick_hostQueue (s : State) : (tick s).hostQueue = s.hostQueue := by rw [tick_frame]
@[simp] theorem tick_draws (s : State) : (tick s).draws = s.draws := by rw [tick_frame]

/-- A tick does not look at the host's ports or the read data. -/
theorem tick_nextCycle (s : State) : tick (nextCycle s) = nextCycle (tick s) := by
  have hl : LastCycle (nextCycle s) ↔ LastCycle s := Iff.rfl
  rcases tick_cases s with ⟨a, h⟩ | ⟨a, b, h⟩ | ⟨a, b, h⟩ | ⟨a, b, h⟩ | ⟨a, b, c, h⟩ | ⟨a, b, c, d, h⟩ | ⟨a, h⟩
  · rw [h]
    exact tick_idle a
  · rw [h]
    exact tick_count (s := nextCycle s) a b
  · rw [h]
    exact tick_brk (s := nextCycle s) a b
  · rw [h]
    exact tick_mab (s := nextCycle s) a b
  · rw [h]
    exact tick_bit (s := nextCycle s) b c a
  · rw [h]
    exact tick_slot (s := nextCycle s) b c d a
  · rw [h]
    exact tick_end (s := nextCycle s) (hl.2 a)

@[simp] theorem tick_nextCycle_phase (s : State) : (tick (nextCycle s)).phase = (tick s).phase := by rw [tick_nextCycle]; rfl
@[simp] theorem tick_nextCycle_rem (s : State) : (tick (nextCycle s)).rem = (tick s).rem := by rw [tick_nextCycle]; rfl
@[simp] theorem tick_nextCycle_bit (s : State) : (tick (nextCycle s)).bit = (tick s).bit := by rw [tick_nextCycle]; rfl
@[simp] theorem tick_nextCycle_byte (s : State) : (tick (nextCycle s)).byte = (tick s).byte := by rw [tick_nextCycle]; rfl
@[simp] theorem tick_nextCycle_frameCnt (s : State) : (tick (nextCycle s)).frameCnt = (tick s).frameCnt := by
  rw [tick_nextCycle]; rfl
@[simp] theorem tick_nextCycle_isOpen (s : State) : (tick (nextCycle s)).isOpen = (tick s).isOpen := by rw [tick_nextCycle]; rfl
@[simp] theorem tick_nextCycle_closing (s : State) : (tick (nextCycle s)).closing = (tick s).closing := by
  rw [tick_nextCycle]; rfl
@[simp] theorem busy_tick_nextCycle (s : State) : busy (tick (nextCycle s)) = busy (tick s) := by rw [tick_nextCycle]; rfl

end Sys2Proof.Machine
end

