-- ==== Sys2Proof/Laws/Access.lean ====
section
/-! SUPPORT. What a command, a register write, an access and a cycle can do, each said once. -/

namespace Sys2Proof.Machine

/-- Everything a command can do: raise one error and nothing else, or its accepted effect. -/
theorem exec_cases {i : Instr} {s t : State} (h : exec i s = .next t) :
    (∃ e, t = raise e s) ∨ (i = .nop ∧ t = s) ∨
    (i = .openPort ∧ busy s = false ∧ s.isOpen = false ∧ s.baudDiv ≠ 0#16 ∧ t = { s with isOpen := true, rts := false }) ∨
    (i = .closePort ∧ s.isOpen = true ∧ s.closing = false ∧
      ((busy s = true ∧ t = { s with closing := true }) ∨ (busy s = false ∧ t = { s with isOpen := false }))) ∨
    (i = .buildProg ∧ busy s = false ∧ t = buildProgFrame s) ∨
    (∃ g, i = .buildInd g ∧ busy s = false ∧ 1 ≤ s.addr.toNat ∧ s.addr.toNat ≤ 509 ∧
      t = putFrame (indicator s.addr.toNat g) s) ∨
    (i = .send ∧ busy s = false ∧ s.isOpen = true ∧ t = loadSegment .brk (breakCycles s) 0 0 s) := by
  cases i with
  | nop =>
    cases h
    exact .inr (.inl ⟨rfl, rfl⟩)
  | openPort =>
    cases h
    rcases unlessBusy_cases openIdle s with ⟨_, he⟩ | ⟨hb, he⟩
    · exact .inl ⟨_, he⟩
    · rw [he]
      unfold openIdle
      split
      · exact .inl ⟨_, rfl⟩
      · split
        · exact .inl ⟨_, rfl⟩
        · next ho hd => exact .inr (.inr (.inl ⟨rfl, hb, by simpa using ho, hd, rfl⟩))
  | closePort =>
    cases h
    unfold closeAny
    split
    · exact .inl ⟨_, rfl⟩
    · next hn =>
      have hn' : s.isOpen = true ∧ s.closing = false := by simpa using hn
      refine .inr (.inr (.inr (.inl ⟨rfl, hn'.1, hn'.2, ?_⟩)))
      split
      · next hb => exact .inl ⟨hb, rfl⟩
      · next hb => exact .inr ⟨by simpa using hb, rfl⟩
  | buildProg =>
    cases h
    rcases unlessBusy_cases buildProgFrame s with ⟨_, he⟩ | ⟨hb, he⟩
    · exact .inl ⟨_, he⟩
    · exact .inr (.inr (.inr (.inr (.inl ⟨rfl, hb, he⟩))))
  | buildInd g =>
    cases h
    rcases unlessBusy_cases (buildIndFrame g) s with ⟨_, he⟩ | ⟨hb, he⟩
    · exact .inl ⟨_, he⟩
    · rw [he]
      unfold buildIndFrame addrNum
      split
      · exact .inl ⟨_, rfl⟩
      · next hr => exact .inr (.inr (.inr (.inr (.inr (.inl ⟨g, rfl, hb, by omega, by omega, rfl⟩)))))
  | send =>
    cases h
    rcases unlessBusy_cases sendIdle s with ⟨_, he⟩ | ⟨hb, he⟩
    · exact .inl ⟨_, he⟩
    · rw [he]
      unfold sendIdle
      split
      · next ho => exact .inr (.inr (.inr (.inr (.inr (.inr ⟨rfl, hb, ho, rfl⟩)))))
      · exact .inl ⟨_, rfl⟩

/-- Every command has a next state. -/
theorem exec_next (i : Instr) (s : State) : ∃ t, exec i s = .next t := by cases i <;> exact ⟨_, rfl⟩

/-- A write to CMD: Err(BADCMD), or the decoded command. -/
theorem command_cases {w : Word} {s t : State} (h : command w s = .next t) :
    t = raise .badCmd s ∨ ∃ i, decode w = .command i ∧ exec i s = .next t := by
  unfold command at h
  split at h
  · next i hi => exact .inr ⟨i, hi, h⟩
  · cases h
    exact .inl rfl

/-- Everything an admitted write can do: raise one error and nothing else, store in its register, or perform a
command. -/
theorem hostWrite_cases {r : Reg} {w : Word} {s t : State} (h : hostWrite r w s = .next t) :
    (∃ e, t = raise e s ∧ (r ≠ .cmd → e = .busy ∨ (r = .baudDiv ∧ e = .locked))) ∨
    (r = .ctrl ∧ t = { s with rts := w.getLsbD 0 }) ∨
    ((r = .status ∨ r = .frameCnt ∨ r = .format ∨ r = .cksum) ∧ t = s) ∨
    (r = .err ∧ t = clearErr (w.extractLsb' 0 8) s) ∨
    (r = .cmd ∧ ∃ i, decode w = .command i ∧ exec i s = .next t) ∨
    (r = .baudDiv ∧ busy s = false ∧ s.isOpen = false ∧ t = { s with baudDiv := lowHalf w }) ∨
    (r = .brkUs ∧ busy s = false ∧ t = { s with brkUs := atLeast brkFloor w }) ∨
    (r = .mabUs ∧ busy s = false ∧ t = { s with mabUs := atLeast mabFloor w }) ∨
    (r = .serial ∧ t = { s with serial := w }) ∨ (r = .addr ∧ t = { s with addr := w }) ∨
    (∃ i, r = .frame i ∧ busy s = false ∧ t = { s with fb := s.fb.write i (w.extractLsb' 0 8) }) := by
  cases r with
  | ctrl => cases h; exact .inr (.inl ⟨rfl, rfl⟩)
  | status => cases h; exact .inr (.inr (.inl ⟨by simp, rfl⟩))
  | err => cases h; exact .inr (.inr (.inr (.inl ⟨rfl, rfl⟩)))
  | cmd =>
    rcases command_cases h with h | h
    · exact .inl ⟨_, h, fun hn => absurd rfl hn⟩
    · exact .inr (.inr (.inr (.inr (.inl ⟨rfl, h⟩))))
  | baudDiv =>
    cases h
    unfold writeBaudDiv
    rcases unlessBusy_cases (fun u => if u.isOpen then raise .locked u else { u with baudDiv := lowHalf w }) s with
      ⟨_, he⟩ | ⟨hb, he⟩
    · exact .inl ⟨_, he, fun _ => .inl rfl⟩
    · rw [he]
      by_cases ho : s.isOpen = true
      · exact .inl ⟨.locked, by simp [ho], fun _ => .inr ⟨rfl, rfl⟩⟩
      · exact .inr (.inr (.inr (.inr (.inr (.inl ⟨rfl, hb, by simpa using ho, by simp [ho]⟩)))))
  | brkUs =>
    cases h
    unfold writeBrkUs
    rcases unlessBusy_cases (fun u => { u with brkUs := atLeast brkFloor w }) s with ⟨_, he⟩ | ⟨hb, he⟩
    · exact .inl ⟨_, he, fun _ => .inl rfl⟩
    · exact .inr (.inr (.inr (.inr (.inr (.inr (.inl ⟨rfl, hb, he⟩))))))
  | mabUs =>
    cases h
    unfold writeMabUs
    rcases unlessBusy_cases (fun u => { u with mabUs := atLeast mabFloor w }) s with ⟨_, he⟩ | ⟨hb, he⟩
    · exact .inl ⟨_, he, fun _ => .inl rfl⟩
    · exact .inr (.inr (.inr (.inr (.inr (.inr (.inr (.inl ⟨rfl, hb, he⟩)))))))
  | serial => cases h; exact .inr (.inr (.inr (.inr (.inr (.inr (.inr (.inr (.inl ⟨rfl, rfl⟩))))))))
  | addr => cases h; exact .inr (.inr (.inr (.inr (.inr (.inr (.inr (.inr (.inr (.inl ⟨rfl, rfl⟩)))))))))
  | frameCnt => cases h; exact .inr (.inr (.inl ⟨by simp, rfl⟩))
  | format => cases h; exact .inr (.inr (.inl ⟨by simp, rfl⟩))
  | cksum => cases h; exact .inr (.inr (.inl ⟨by simp, rfl⟩))
  | frame i =>
    cases h
    unfold writeFrame
    rcases unlessBusy_cases (fun u => { u with fb := u.fb.write i (w.extractLsb' 0 8) }) s with ⟨_, he⟩ | ⟨hb, he⟩
    · exact .inl ⟨_, he, fun _ => .inl rfl⟩
    · exact .inr (.inr (.inr (.inr (.inr (.inr (.inr (.inr (.inr (.inr ⟨i, rfl, hb, he⟩)))))))))

theorem command_next (w : Word) (s : State) : ∃ t, command w s = .next t := by
  unfold command
  split
  · exact exec_next _ _
  · exact ⟨_, rfl⟩

theorem hostWrite_next (r : Reg) (w : Word) (s : State) : ∃ t, hostWrite r w s = .next t := by
  cases r <;> first | exact ⟨_, rfl⟩ | exact command_next w s

theorem access_next (p : Ports) (s : State) : ∃ t, access p s = .next t := by
  unfold access
  split
  · split
    · unfold admittedAccess
      split
      · exact hostWrite_next _ _ _
      · exact ⟨_, rfl⟩
    · exact ⟨_, rfl⟩
  · exact ⟨_, rfl⟩

theorem cycle_next (p : Ports) (s : State) : ∃ t, cycle p s = .next t := by
  unfold cycle
  split
  · exact ⟨_, rfl⟩
  · exact access_next _ _

/-- Everything an access can do: nothing, Err(BUS), an admitted read, or an admitted write. -/
theorem access_cases {p : Ports} {s t : State} (h : access p s = .next t) :
    (p.req = false ∧ t = s) ∨ (p.req = true ∧ admitted p = none ∧ t = raise .bus s) ∨
    (p.req = true ∧ p.we = false ∧ ∃ r, admitted p = some r ∧ t = hostRead r s) ∨
    (p.req = true ∧ p.we = true ∧ ∃ r, admitted p = some r ∧ hostWrite r p.wdata s = .next t) := by
  unfold access at h
  split at h
  · next hq =>
    split at h
    · next r hr =>
      unfold admittedAccess at h
      split at h
      · next hw => exact .inr (.inr (.inr ⟨hq, hw, r, hr, h⟩))
      · next hw =>
        cases h
        exact .inr (.inr (.inl ⟨hq, by simpa using hw, r, hr, rfl⟩))
    · next hr =>
      cases h
      exact .inr (.inl ⟨hq, hr, rfl⟩)
  · next hq =>
    cases h
    exact .inl ⟨by simpa using hq, rfl⟩

/-- Everything a step can do: a reset edge, or the tick and then the access on the ticked state (R180). -/
theorem step_cases {s t : State} (h : step s = .next t) :
    ((currentPorts s).rst = true ∧ t = State.afterReset s.draws s.hostQueue.tail) ∨
    ((currentPorts s).rst = false ∧ access (currentPorts s) (tick (nextCycle s)) = .next t) := by
  unfold step cycle at h
  split at h
  · next hr =>
    cases h
    exact .inl ⟨hr, rfl⟩
  · next hr => exact .inr ⟨by simpa using hr, h⟩

/-- The word an access is admitted to is CMD exactly for a 4-byte access at its offset (20_memory.md R72). -/
theorem admitted_cmd_iff {p : Ports} : admitted p = some .cmd ↔ p.size = 2#2 ∧ p.addr = 0x000C#16 := by
  have hlow : ∀ k, lowReg k = some Reg.cmd → k = 3 := by
    intro k hk
    unfold lowReg at hk
    split at hk <;> first | rfl | cases hk
  constructor
  · intro h
    unfold admitted at h
    split at h
    · next hs =>
      refine ⟨hs.1, ?_⟩
      unfold wordAt at h
      split at h
      · have := hlow _ h
        apply BitVec.eq_of_toNat_eq
        have := hs.2
        simp only [BitVec.toNat_ofNat]
        omega
      · split at h <;> cases h
    · cases h
  · rintro ⟨hs, ha⟩
    simp [admitted, hs, ha, wordAt, lowReg]

/-- A write that is decoded as a command is a `WritesCommand`. -/
theorem writesCommand_of_admitted {p : Ports} (hr : p.rst = false) (hq : p.req = true) (hw : p.we = true)
    (ha : admitted p = some .cmd) : WritesCommand p p.wdata :=
  ⟨hr, hq, hw, (admitted_cmd_iff.1 ha).1, (admitted_cmd_iff.1 ha).2, rfl⟩

theorem access_of_writesCommand {p : Ports} {w : Word} (h : WritesCommand p w) (s : State) : access p s = command w s := by
  obtain ⟨-, hq, hw, hs, ha, rfl⟩ := h
  simp [access, hq, admitted_cmd_iff.2 ⟨hs, ha⟩, admittedAccess, hw, hostWrite]

/-- A step in which the host writes a word to CMD. -/
theorem step_of_writesCommand {s : State} {w : Word} (h : WritesCommand (currentPorts s) w) :
    step s = command w (tick (nextCycle s)) := by
  simp only [step, cycle, h.1]
  exact access_of_writesCommand h _

end Sys2Proof.Machine
end

