-- ==== Sys2Proof/Laws/Memory.lean ====
section
/-! SUPPORT. The laws of the frame buffer: every operation keeps the canonical form, a byte reads as last written, and
two canonical buffers with equal bytes are equal. -/

namespace Sys2Proof.Machine

theorem Memory.wf_iff {m : Memory} :
    m.wf = true ↔ m.Pairwise (fun c d => c.1 < d.1) ∧ ∀ c ∈ m, c.1 < 513 ∧ c.2 ≠ Memory.unlisted := by
  simp [Memory.wf, List.all_eq_true]

/-- An index that no cell holds reads as unlisted. -/
theorem Memory.lookup_unlisted {m : Memory} {i : Nat} (h : ∀ c ∈ m, c.1 ≠ i) : m.lookup i = Memory.unlisted := by
  induction m with
  | nil => rfl
  | cons c rest ih =>
    obtain ⟨k, b⟩ := c
    have hk : k ≠ i := h (k, b) (by simp)
    simp only [Memory.lookup, if_neg hk]
    exact ih fun d hd => h d (by simp [hd])

theorem Memory.lookup_filter_other {m : Memory} {i j : Nat} (h : j ≠ i) :
    Memory.lookup (m.filter fun c => decide (c.1 ≠ i)) j = m.lookup j := by
  induction m with
  | nil => rfl
  | cons c rest ih =>
    obtain ⟨k, b⟩ := c
    by_cases hk : k = i
    · have hkj : k ≠ j := fun e => h (e ▸ hk)
      rw [List.filter_cons_of_neg (by simp [hk]), ih]
      simp [Memory.lookup, hkj]
    · rw [List.filter_cons_of_pos (by simp [hk])]
      simp only [Memory.lookup, ih]

theorem Memory.lookup_insert_same {m : Memory} {i : Nat} {v : Byte} (h : ∀ c ∈ m, c.1 ≠ i) :
    Memory.lookup (m.insert i v) i = v := by
  induction m with
  | nil => simp [Memory.insert, Memory.lookup]
  | cons c rest ih =>
    obtain ⟨k, b⟩ := c
    have hk : k ≠ i := h (k, b) (by simp)
    by_cases hik : i < k
    · simp [Memory.insert, Memory.lookup, hik]
    · simp only [Memory.insert, if_neg hik, Memory.lookup, if_neg hk]
      exact ih fun d hd => h d (by simp [hd])

theorem Memory.lookup_insert_other {m : Memory} {i j : Nat} {v : Byte} (h : j ≠ i) :
    Memory.lookup (m.insert i v) j = m.lookup j := by
  induction m with
  | nil => simp [Memory.insert, Memory.lookup, h.symm]
  | cons c rest ih =>
    obtain ⟨k, b⟩ := c
    by_cases hik : i < k
    · simp [Memory.insert, Memory.lookup, hik, h.symm]
    · simp only [Memory.insert, if_neg hik, Memory.lookup, ih]

theorem Memory.filter_ne {m : Memory} {i : Nat} : ∀ c ∈ m.filter (fun c => decide (c.1 ≠ i)), c.1 ≠ i := by
  intro c hc
  simpa using (List.mem_filter.1 hc).2

/-- A byte reads as last written. -/
@[simp] theorem Memory.read_write_same (m : Memory) (i : FrameIndex) (v : Byte) : (m.write i v).read i = v := by
  by_cases hv : v = Memory.unlisted
  · simp only [Memory.write, if_pos hv, Memory.read]
    rw [Memory.lookup_unlisted Memory.filter_ne, hv]
  · simp only [Memory.write, if_neg hv, Memory.read]
    exact Memory.lookup_insert_same Memory.filter_ne

/-- A write leaves every other byte alone. -/
theorem Memory.read_write_other (m : Memory) {i j : FrameIndex} (v : Byte) (h : j ≠ i) :
    (m.write i v).read j = m.read j := by
  have hv : j.val ≠ i.val := fun e => h (Fin.ext e)
  by_cases hu : v = Memory.unlisted
  · simp only [Memory.write, if_pos hu, Memory.read]
    exact Memory.lookup_filter_other hv
  · simp only [Memory.write, if_neg hu, Memory.read]
    rw [Memory.lookup_insert_other hv, Memory.lookup_filter_other hv]

theorem Memory.mem_insert {m : Memory} {i : Nat} {v : Byte} {c : Host.Cell} :
    c ∈ m.insert i v ↔ c = (i, v) ∨ c ∈ m := by
  induction m with
  | nil => simp [Memory.insert]
  | cons d rest ih =>
    obtain ⟨k, b⟩ := d
    by_cases hik : i < k
    · simp [Memory.insert, hik]
    · simp only [Memory.insert, if_neg hik, List.mem_cons, ih]
      tauto

theorem Memory.insert_pairwise {m : Memory} {i : Nat} {v : Byte} (hm : m.Pairwise fun c d => c.1 < d.1)
    (hi : ∀ c ∈ m, c.1 ≠ i) : (m.insert i v).Pairwise fun c d => c.1 < d.1 := by
  induction m with
  | nil => simp [Memory.insert]
  | cons d rest ih =>
    obtain ⟨k, b⟩ := d
    obtain ⟨hhead, hrest⟩ := List.pairwise_cons.1 hm
    have hk : k ≠ i := hi (k, b) (by simp)
    by_cases hik : i < k
    · simp only [Memory.insert, if_pos hik]
      refine List.pairwise_cons.2 ⟨fun c hc => ?_, hm⟩
      rcases List.mem_cons.1 hc with rfl | hc
      · exact hik
      · exact lt_trans hik (hhead c hc)
    · simp only [Memory.insert, if_neg hik]
      refine List.pairwise_cons.2 ⟨fun c hc => ?_, ih hrest fun c hc => hi c (by simp [hc])⟩
      rcases Memory.mem_insert.1 hc with rfl | hc
      · show k < i
        omega
      · exact hhead c hc

/-- A write keeps the canonical form. -/
theorem Memory.wf_write {m : Memory} (hm : m.wf = true) (i : FrameIndex) (v : Byte) : (m.write i v).wf = true := by
  rw [Memory.wf_iff] at hm ⊢
  have hp : (m.filter fun c => decide (c.1 ≠ i.val)).Pairwise fun c d => c.1 < d.1 := hm.1.filter _
  by_cases hv : v = Memory.unlisted
  · simp only [Memory.write, if_pos hv]
    exact ⟨hp, fun c hc => hm.2 c (List.mem_filter.1 hc).1⟩
  · simp only [Memory.write, if_neg hv]
    refine ⟨Memory.insert_pairwise hp Memory.filter_ne, fun c hc => ?_⟩
    rcases Memory.mem_insert.1 hc with rfl | hc
    · exact ⟨i.isLt, hv⟩
    · exact hm.2 c (List.mem_filter.1 hc).1

/-- The cells of a whole buffer that come from a range of indices. -/
theorem Memory.mem_cells {f : Nat → Byte} {l : List Nat} {c : Host.Cell} :
    c ∈ l.filterMap (Memory.cellOf f) ↔ c.1 ∈ l ∧ f c.1 ≠ Memory.unlisted ∧ c.2 = f c.1 := by
  obtain ⟨k, b⟩ := c
  simp only [List.mem_filterMap, Memory.cellOf]
  constructor
  · rintro ⟨i, hi, he⟩
    split at he
    · cases he
    · next hf =>
      cases he
      exact ⟨hi, hf, rfl⟩
  · rintro ⟨hk, hf, hb⟩
    exact ⟨k, hk, (if_neg hf).trans (congrArg some (Prod.ext rfl hb.symm))⟩

theorem Memory.cells_pairwise {f : Nat → Byte} {l : List Nat} (hl : l.Pairwise (· < ·)) :
    (l.filterMap (Memory.cellOf f)).Pairwise fun c d => c.1 < d.1 := by
  induction l with
  | nil => simp
  | cons k rest ih =>
    obtain ⟨hhead, hrest⟩ := List.pairwise_cons.1 hl
    by_cases hf : f k = Memory.unlisted
    · rw [List.filterMap_cons_none (by simp [Memory.cellOf, hf])]
      exact ih hrest
    · rw [List.filterMap_cons_some (b := (k, f k)) (by simp [Memory.cellOf, hf])]
      exact List.pairwise_cons.2 ⟨fun c hc => hhead c.1 (Memory.mem_cells.1 hc).1, ih hrest⟩

theorem Memory.lookup_cells {f : Nat → Byte} {l : List Nat} {i : Nat} (hi : i ∈ l) :
    Memory.lookup (l.filterMap (Memory.cellOf f)) i = f i := by
  induction l with
  | nil => cases hi
  | cons k rest ih =>
    by_cases hf : f k = Memory.unlisted
    · rw [List.filterMap_cons_none (by simp [Memory.cellOf, hf])]
      by_cases hk : i ∈ rest
      · exact ih hk
      · have hik : i = k := by simpa [hk] using hi
        subst hik
        rw [Memory.lookup_unlisted, hf]
        intro c hc he
        exact (Memory.mem_cells.1 hc).2.1 (he ▸ hf)
    · rw [List.filterMap_cons_some (b := (k, f k)) (by simp [Memory.cellOf, hf])]
      by_cases hk : k = i
      · simp [Memory.lookup, hk]
      · simp only [Memory.lookup, if_neg hk]
        exact ih (by simpa [Ne.symm hk] using hi)

/-- A whole-buffer write gives every index its byte. -/
@[simp] theorem Memory.read_ofBytes (f : Nat → Byte) (i : FrameIndex) : (Memory.ofBytes f).read i = f i.val :=
  Memory.lookup_cells (List.mem_range'_1.2 ⟨Nat.zero_le _, by omega⟩)

/-- A whole-buffer write is canonical. -/
@[simp] theorem Memory.wf_ofBytes (f : Nat → Byte) : (Memory.ofBytes f).wf = true := by
  rw [Memory.wf_iff]
  refine ⟨Memory.cells_pairwise List.pairwise_lt_range', fun c hc => ?_⟩
  obtain ⟨hk, hf, hb⟩ := Memory.mem_cells.1 hc
  exact ⟨by have := List.mem_range'_1.1 hk; omega, hb ▸ hf⟩

/-- In a canonical buffer a cell is listed exactly where its byte is not the unlisted one. -/
theorem Memory.mem_iff_lookup {m : Memory} (hp : m.Pairwise fun c d => c.1 < d.1)
    (hu : ∀ c ∈ m, c.2 ≠ Memory.unlisted) {c : Host.Cell} :
    c ∈ m ↔ m.lookup c.1 = c.2 ∧ c.2 ≠ Memory.unlisted := by
  induction m with
  | nil =>
    simp only [List.not_mem_nil, Memory.lookup, false_iff, not_and, not_not]
    exact fun h => h.symm
  | cons d rest ih =>
    obtain ⟨k, b⟩ := d
    obtain ⟨hhead, hrest⟩ := List.pairwise_cons.1 hp
    have ih' := ih hrest fun c hc => hu c (by simp [hc])
    by_cases hk : k = c.1
    · simp only [Memory.lookup, if_pos hk, List.mem_cons]
      constructor
      · rintro (rfl | hc)
        · exact ⟨rfl, hu _ (by simp)⟩
        · exact absurd (hhead c hc) (by simp [hk])
      · rintro ⟨rfl, -⟩
        exact Or.inl (Prod.ext hk.symm rfl)
    · simp only [Memory.lookup, if_neg hk, List.mem_cons, ih']
      constructor
      · rintro (rfl | h)
        · exact absurd rfl hk
        · exact h
      · exact Or.inr

/-- Canonical buffers with equal bytes are equal data. -/
theorem Memory.ext_of_wf {m n : Memory} (hm : m.wf = true) (hn : n.wf = true)
    (h : ∀ i : FrameIndex, m.read i = n.read i) : m = n := by
  rw [Memory.wf_iff] at hm hn
  have hlook : ∀ k, m.lookup k = n.lookup k := by
    intro k
    by_cases hk : k < 513
    · exact h ⟨k, hk⟩
    · rw [Memory.lookup_unlisted fun c hc e => hk (by have := (hm.2 c hc).1; omega),
        Memory.lookup_unlisted fun c hc e => hk (by have := (hn.2 c hc).1; omega)]
  have hmem : ∀ c, c ∈ m ↔ c ∈ n := by
    intro c
    rw [Memory.mem_iff_lookup hm.1 fun c hc => (hm.2 c hc).2,
      Memory.mem_iff_lookup hn.1 fun c hc => (hn.2 c hc).2, hlook]
  have nodup : ∀ l : Memory, l.Pairwise (fun c d => c.1 < d.1) → l.Nodup := fun l hl =>
    hl.imp fun {c d} hcd e => absurd (e ▸ hcd) (lt_irrefl _)
  have hperm : m.Perm n := (List.perm_ext_iff_of_nodup (nodup m hm.1) (nodup n hn.1)).2 hmem
  refine hperm.eq_of_pairwise (fun a b _ _ hab hba => ?_) hm.1 hn.1
  exact absurd (lt_trans hab hba) (lt_irrefl _)

end Sys2Proof.Machine
end

