-- ==== Sys2Proof/Laws/Builder.lean ====
section
/-! SUPPORT. What the packet builder's operations do: the residue, one byte of a frame under construction, and the two
builders' accepted and refused effects. -/

namespace Sys2Proof.Machine

/-- `mod256` is the Euclidean remainder of Lean's Int. -/
theorem mod256_eq_emod (x : Int) : mod256 x = x % 256 := by
  unfold mod256
  omega

theorem mod256_range (x : Int) : 0 ≤ mod256 x ∧ mod256 x ≤ 255 := by
  rw [mod256_eq_emod]
  omega

/-- A number in the range of a byte is that byte's value. -/
theorem toNat_ofInt_byte {x : Int} (h0 : 0 ≤ x) (h1 : x ≤ 255) : ((BitVec.ofInt 8 x).toNat : Int) = x := by
  rw [BitVec.toNat_ofInt]
  omega

@[simp] theorem setByte_same (k : Nat) (v : Byte) (f : Nat → Byte) : setByte k v f k = v := by simp [setByte]

theorem setByte_other {k i : Nat} (h : i ≠ k) (v : Byte) (f : Nat → Byte) : setByte k v f i = f i := by
  simp [setByte, h]

theorem execBuildProg_busy {s : State} (h : busy s = true) : exec .buildProg s = .next (raise .busy s) := by
  simp only [exec, execBuildProg, unlessBusy_busy h]

theorem execBuildProg_idle {s : State} (h : busy s = false) : exec .buildProg s = .next (buildProgFrame s) := by
  simp only [exec, execBuildProg, unlessBusy_idle h]

theorem execBuildInd_busy {s : State} (green : Bool) (h : busy s = true) :
    exec (.buildInd green) s = .next (raise .busy s) := by
  simp only [exec, execBuildInd, unlessBusy_busy h]

theorem execBuildInd_range {s : State} (green : Bool) (h : busy s = false)
    (hr : s.addr.toNat < 1 ∨ 509 < s.addr.toNat) : exec (.buildInd green) s = .next (raise .range s) := by
  simp only [exec, execBuildInd, unlessBusy_idle h]
  exact congrArg Host.Outcome.next (if_pos (c := addrNum s < 1 ∨ 509 < addrNum s) hr)

theorem execBuildInd_accepted {s : State} (green : Bool) (h : busy s = false) (h1 : 1 ≤ s.addr.toNat)
    (h2 : s.addr.toNat ≤ 509) :
    exec (.buildInd green) s = .next (putFrame (indicator s.addr.toNat green) s) := by
  simp only [exec, execBuildInd, unlessBusy_idle h]
  exact congrArg Host.Outcome.next (if_neg (c := addrNum s < 1 ∨ 509 < addrNum s) (by unfold addrNum; omega))

end Sys2Proof.Machine
end

