-- ==== Sys2Proof/Laws/Config.lean ====
section
/-! SUPPORT. The build's parameters are legal, whatever the uninterpreted set is. -/

namespace Sys2Proof

theorem Params.sample_legal : Params.sample.Legal := by decide

/-- 00_scope.md R2 holds of the parameters the machine uses. -/
theorem Config.params_legal : Config.params.Legal := by
  unfold Config.params
  split
  · assumption
  · exact Params.sample_legal

theorem Config.usDiv_pos : 1 ≤ Config.usDiv := Config.params_legal.2.2.2.1

theorem Config.baudDivRst_pos : 1 ≤ Config.baudDivRst := Config.params_legal.2.1

theorem Config.baudDivRst_le : Config.baudDivRst ≤ 65535 := Config.params_legal.2.2.1

/-! The tick period covers a microsecond (00_scope.md R1, 42_serializer.md R189). -/

theorem Params.le_usDiv_mul (p : Params) : p.fBaseHz ≤ p.usDiv * 1000000 := by
  obtain ⟨f, _, _, _, _, _⟩ := p
  show f ≤ (f / 1000000 + if f % 1000000 = 0 then 0 else 1) * 1000000
  split <;> omega

theorem Params.usDiv_mul_of_dvd (p : Params) (h : p.fBaseHz % 1000000 = 0) : p.usDiv * 1000000 = p.fBaseHz := by
  obtain ⟨f, _, _, _, _, _⟩ := p
  have h : f % 1000000 = 0 := h
  show (f / 1000000 + if f % 1000000 = 0 then 0 else 1) * 1000000 = f
  rw [if_pos h]
  omega

/-- `usDiv` is the ceiling of R1. -/
theorem Params.usDiv_eq_ceil (p : Params) : p.usDiv = ⌈(p.fBaseHz : ℚ) / 1000000⌉₊ := by
  have key : ∀ n : Nat, ⌈(p.fBaseHz : ℚ) / 1000000⌉₊ ≤ n ↔ p.fBaseHz ≤ n * 1000000 := by
    intro n
    rw [Nat.ceil_le, div_le_iff₀ (by norm_num)]
    exact_mod_cast Iff.rfl
  refine le_antisymm ?_ ((key _).2 p.le_usDiv_mul)
  have h := (key _).1 le_rfl
  generalize ⌈(p.fBaseHz : ℚ) / 1000000⌉₊ = n at h
  obtain ⟨f, _, _, _, _, _⟩ := p
  have h : f ≤ n * 1000000 := h
  show (f / 1000000 + if f % 1000000 = 0 then 0 else 1) ≤ n
  split <;> omega

theorem Config.usDiv_eq : Config.usDiv = Config.params.usDiv := rfl

theorem Config.baudDivRst_eq : Config.baudDivRst = Config.params.baudDivRst := rfl

theorem Config.le_usDiv_mul : Config.params.fBaseHz ≤ Config.usDiv * 1000000 := by
  rw [Config.usDiv_eq]
  exact Params.le_usDiv_mul _

theorem Config.usDiv_mul_of_dvd (h : Config.params.fBaseHz % 1000000 = 0) :
    Config.usDiv * 1000000 = Config.params.fBaseHz := by
  rw [Config.usDiv_eq]
  exact Params.usDiv_mul_of_dvd _ h

end Sys2Proof
end

