-- ==== Sys2Proof/Laws/PerInstr.lean ====
section
/-! SUPPORT. Per-instruction statements: the round trip of a command's word. -/

namespace Sys2Proof.Laws.EncodeRoundTrip

/-- The command is well formed, its word has no reserved bit set and its opcode and flag in their places (30_encoding.md
R100), and the word decodes to the command. -/
def Statement (i : Instr) : Prop :=
  i.wellFormed = true ∧ encode i &&& reservedMask = 0#32 ∧ opField (encode i) = opcodeOf i ∧
    greenField (encode i) = greenOf i ∧ decode (encode i) = .command i

theorem nop : Statement .nop := by unfold Statement; decide

theorem openPort : Statement .openPort := by unfold Statement; decide

theorem closePort : Statement .closePort := by unfold Statement; decide

theorem buildProg : Statement .buildProg := by unfold Statement; decide

theorem buildInd (green : Bool) : Statement (.buildInd green) := by cases green <;> (unfold Statement; decide)

theorem send : Statement .send := by unfold Statement; decide

end Sys2Proof.Laws.EncodeRoundTrip
end

