-- ==== Sys2Proof/Laws/Runs.lean ====
section
/-! SUPPORT. Runs of clock cycles: how they compose, how the host's queue moves, and how REM counts over several ticks. -/

namespace Sys2Proof.Machine

theorem step_next (s : State) : ∃ t, step s = .next t := cycle_next _ _

theorem Runs.append {j k : Nat} : ∀ {s u t : State}, Runs j s u → Runs k u t → Runs (j + k) s t := by
  induction j with
  | zero =>
    rintro s u t rfl hk
    simpa using hk
  | succ j ih =>
    rintro s u t ⟨v, hv, hj⟩ hk
    rw [Nat.add_right_comm]
    exact ⟨v, hv, ih hj hk⟩

theorem Runs.one {s t : State} (h : step s = .next t) : Runs 1 s t := ⟨t, h, rfl⟩

/-- A step whose cycle has no reset is the access on the ticked state. -/
theorem step_of_no_reset {s : State} (h : (currentPorts s).rst = false) :
    step s = access (currentPorts s) (tick (nextCycle s)) := by
  simp [step, cycle, h]

/-- No command touches the host's queue or FRAMECNT. -/
theorem exec_keeps_queue {i : Instr} {s t : State} (h : exec i s = .next t) :
    t.hostQueue = s.hostQueue ∧ t.frameCnt = s.frameCnt := by
  rcases exec_cases h with ⟨e, rfl⟩ | ⟨-, rfl⟩ | ⟨-, -, -, -, rfl⟩ | ⟨-, -, -, ⟨-, rfl⟩ | ⟨-, rfl⟩⟩ | ⟨-, -, rfl⟩ |
    ⟨g, -, -, -, -, rfl⟩ | ⟨-, -, -, rfl⟩ <;> exact ⟨rfl, rfl⟩

/-- No access touches the host's queue or FRAMECNT. -/
theorem access_keeps_queue {p : Ports} {s t : State} (h : access p s = .next t) :
    t.hostQueue = s.hostQueue ∧ t.frameCnt = s.frameCnt := by
  rcases access_cases h with ⟨-, rfl⟩ | ⟨-, -, rfl⟩ | ⟨-, -, r, -, rfl⟩ | ⟨-, -, r, -, h⟩
  · exact ⟨rfl, rfl⟩
  · exact ⟨rfl, rfl⟩
  · exact ⟨rfl, rfl⟩
  · rcases hostWrite_cases h with ⟨e, rfl, -⟩ | ⟨-, rfl⟩ | ⟨-, rfl⟩ | ⟨-, rfl⟩ | ⟨-, i, -, h⟩ | ⟨-, -, -, rfl⟩ |
      ⟨-, -, rfl⟩ | ⟨-, -, rfl⟩ | ⟨-, rfl⟩ | ⟨-, rfl⟩ | ⟨i, -, -, rfl⟩
    all_goals first | exact ⟨rfl, rfl⟩ | exact exec_keeps_queue h

/-- Every step moves the host's queue on by one cycle. -/
theorem step_hostQueue {s t : State} (h : step s = .next t) : t.hostQueue = s.hostQueue.tail := by
  rcases step_cases h with ⟨-, rfl⟩ | ⟨-, h⟩
  · rfl
  · rw [(access_keeps_queue h).1]
    simp

/-- Over fewer ticks than REM only REM changes. -/
theorem tick_iterate (n : Nat) : ∀ s : State, s.phase ≠ .idle → n < s.rem → tick^[n] s = { s with rem := s.rem - n } := by
  induction n with
  | zero => exact fun _ _ _ => rfl
  | succ n ih =>
    intro s hp hr
    have hn : n < s.rem - 1 := by omega
    rw [Function.iterate_succ_apply, tick_count hp (by omega), ih { s with rem := s.rem - 1 } hp hn]
    simp only [Nat.sub_sub, Nat.add_comm]

end Sys2Proof.Machine
end

