-- ==== Sys2Proof/Tests/Slice0.lean ====
section
/-! SUPPORT. The model's own tests: expected values are those of spec/95_test_vectors.md (its rows are named) or are worked
out by hand from the rule named. Then the witnesses: states and operands that meet the hypotheses of the statements. -/

namespace Sys2Proof.Tests

open Sys2Proof.Machine

/-! ## Small states -/

/-- Idle, closed, at the common setting of 95_test_vectors.md, with an empty host queue and a buffer of zeros. -/
def closed : State :=
  { rts := false, isOpen := false, closing := false, phase := .idle, rem := 0, bit := 0, byte := 0, err := 0#8
    baudDiv := 16#16, brkUs := 200#16, mabUs := 20#16, serial := 3080852#32, addr := 33#32, frameCnt := 7#32, ck1 := 0#8
    ck2 := 0#8, fb := [], busRdata := 0#32, hostQueue := [], draws := 1 }

/-- Idle, open. -/
def opened : State := { closed with isOpen := true }

/-- In the break, open, with `n` cycles left. -/
def inBreak (n : Nat) : State := { opened with phase := .brk, rem := n }

/-- In the mark-after-break, open, with `n` cycles left. -/
def inMab (n : Nat) : State := { opened with phase := .mab, rem := n }

/-- In DATA, open, at slot `y`, bit `b`, with `n` cycles left. -/
def inData (y : FrameIndex) (b : Fin 11) (n : Nat) : State := { opened with phase := .data, rem := n, byte := y, bit := b }

/-- The last cycle of a frame. -/
def lastCycle : State := inData 512 10 1

/-- `s` with the ports of the coming cycles. -/
def withPorts (q : List Ports) (s : State) : State := { s with hostQueue := q }

/-- A 4-byte write of `w` at offset `off`. -/
def write4 (off : Half) (w : Word) : Ports := { Ports.idle with req := true, we := true, addr := off, size := 2#2, wdata := w }

/-- A 4-byte read at offset `off`. -/
def read4 (off : Half) : Ports := { Ports.idle with req := true, addr := off, size := 2#2 }

/-- A cycle with the reset input high and, beside it, an access the reset discards. -/
def resetPorts : Ports := { write4 0x000C#16 0x00000005#32 with rst := true }

/-- A field of the next state, where there is one. -/
def after {α : Type} (o : Host.Outcome State Fault Refusal) (f : State → α) : Option α :=
  match o with
  | .next t => some (f t)
  | .fault _ => none
  | .refused _ => none

/-! ## Decoding: words written out from 30_encoding.md R100 and R102 -/

/-- The word with opcode bits `op` in 3:0, flag `g` in bit 8, and `hi` and `lo` in the reserved bits 31:9 and 7:4 (R100). -/
def wordOf (hi : BitVec 23) (g : BitVec 1) (lo : BitVec 4) (op : BitVec 4) : Word := hi ++ g ++ lo ++ op

theorem test_decode_nop : decode (wordOf 0#23 0#1 0b0000#4 0b0000#4) = .command .nop := by decide
theorem test_decode_open : decode (wordOf 0#23 0#1 0b0000#4 0b0001#4) = .command .openPort := by decide
theorem test_decode_close : decode (wordOf 0#23 0#1 0b0000#4 0b0010#4) = .command .closePort := by decide
theorem test_decode_build_prog : decode (wordOf 0#23 0#1 0b0000#4 0b0011#4) = .command .buildProg := by decide
theorem test_decode_build_ind_off : decode (wordOf 0#23 0#1 0b0000#4 0b0100#4) = .command (.buildInd false) := by decide
/-- Vector D9. -/
theorem test_decode_build_ind_green : decode (wordOf 0#23 1#1 0b0000#4 0b0100#4) = .command (.buildInd true) := by decide
theorem test_decode_send : decode (wordOf 0#23 0#1 0b0000#4 0b0101#4) = .command .send := by decide

/-- The host's table words. -/
theorem test_table_words :
    decodeTableWord 32 0x00000104 = some (.buildInd true) ∧ decodeTableWord 32 0x00000005 = some .send ∧
      decodeTableWord 32 0x00000105 = none := by decide

/-! ## The well-formedness smoke test: an ill-formed word for each of the three checks of R101 -/

/-- Vectors D4, D5, D10, and the corners 7 and 31 of the reserved fields: the first check. -/
theorem test_ill_formed_reserved_bits :
    decode 0x00000010#32 = .illegal .reservedBits ∧ decode 0x00000080#32 = .illegal .reservedBits ∧
      decode 0x00000204#32 = .illegal .reservedBits ∧ decode 0x80000005#32 = .illegal .reservedBits := by decide
/-- Vectors D6, D7: the second check. -/
theorem test_ill_formed_opcode :
    decode 0x00000006#32 = .illegal .reservedOpcode ∧ decode 0x0000000F#32 = .illegal .reservedOpcode := by decide
/-- Vectors D3, D8, A27: the third check. -/
theorem test_ill_formed_green :
    decode 0x00000100#32 = .illegal .strayGreen ∧ decode 0x00000105#32 = .illegal .strayGreen ∧
      decode 0x00000103#32 = .illegal .strayGreen := by decide
/-- Every term of `Instr` is well formed (R102). -/
theorem test_well_formed : ∀ g, (Instr.buildInd g).wellFormed = true := by decide

/-! ## Checksum arithmetic (V-A, V-B) -/

theorem test_mod256 : mod256 0 = 0 ∧ mod256 255 = 255 ∧ mod256 256 = 0 ∧ mod256 (-1) = 255 ∧ mod256 (-256) = 0 ∧
    mod256 (-257) = 255 ∧ mod256 (4291887295 + 4294967294) = 0xBD := by decide
/-- Vectors A2, A3, A4, A11. -/
theorem test_checksum_thresholds :
    checksum1 3080852#32 33#32 = 0xBE#8 ∧ checksum2 3080852#32 33#32 = 0xBA#8 ∧
      checksum1 3080191#32 1#32 = 0x05#8 ∧ checksum2 3080192#32 1#32 = 0x4E#8 ∧
      checksum1 3080000#32 256#32 = 0x46#8 := by decide
/-- Vectors A15, A18, A19, A21. -/
theorem test_checksum_extremes :
    checksum1 3079999#32 1#32 = 0x45#8 ∧ checksum2 0#32 0#32 = 0x48#8 ∧
      checksum2 0xFFFFFFFF#32 0xFFFFFFFF#32 = 0x48#8 ∧ checksum1 3080000#32 65537#32 = 0x47#8 := by decide

/-! ## Commands -/

/-- Vector D2. -/
theorem test_nop_while_busy : after (exec .nop (inBreak 5)) id = some (inBreak 5) := by decide

/-- Vector F2. -/
theorem test_open_clears_rts :
    after (exec .openPort { closed with rts := true }) (fun t => (readReg .status t, t.rts, t.err)) =
      some (0x00000001#32, false, 0#8) := by decide
/-- Vector F4: BAUD, and RTS is left alone. -/
theorem test_open_divisor_zero :
    after (exec .openPort { closed with rts := true, baudDiv := 0#16 }) (fun t => (readReg .status t, t.rts, t.err)) =
      some (0x00000000#32, true, 0x02#8) := by decide

/-- Vector F8. -/
theorem test_close_in_break :
    after (exec .closePort (inBreak 5)) (fun t => (readReg .status t, t.err)) = some (0x00000017#32, 0#8) := by decide
/-- Vector F7. -/
theorem test_close_closed :
    after (exec .closePort closed) (fun t => (readReg .status t, t.err)) = some (0x00000000#32, 0x04#8) := by decide

/-- Vectors A29 and A28, in the layout of `Params.sample`: the serial bytes, the address bytes, the checksum bytes, the
byte after the template. -/
theorem test_packet_bytes :
    [2, 3, 4, 5, 6, 7, 8, 9, 36].map (progPacketOf Params.sample (fun _ => 0xA5#8) 3080852#32 33#32) =
      [0x2F#8, 0x02#8, 0x94#8, 0x00#8, 0x21#8, 0xBE#8, 0xBA#8, 0xA5#8, 0x00#8] := by decide
/-- Vector A25: CKSUM after BUILD_PROG on a closed port, by R44. -/
theorem test_build_prog_cksum :
    after (exec .buildProg closed) (fun t => (readReg .cksum t, t.err)) = some (0x0000BABE#32, 0#8) := by decide

/-- Vectors C2, C5, C7. -/
theorem test_indicator_bytes :
    [0, 1, 2, 3, 4, 5].map (indicator 1 true) = [0x00#8, 0x00#8, 0xFF#8, 0x00#8, 0xFF#8, 0x00#8] ∧
      [31, 32, 33, 34, 35, 37].map (indicator 33 true) = [0xFF#8, 0x00#8, 0x00#8, 0xFF#8, 0x00#8, 0xFF#8] ∧
      [506, 507, 508, 509, 510, 511, 512].map (indicator 509 false) =
        [0x00#8, 0x00#8, 0xFF#8, 0x00#8, 0x00#8, 0x00#8, 0x00#8] := by decide
/-- Vectors C10, C15, C17: the range check uses all 32 bits, and BUSY comes first. -/
theorem test_build_ind_refusals :
    after (exec (.buildInd false) { closed with addr := 510#32 }) State.err = some 0x10#8 ∧
      after (exec (.buildInd true) { closed with addr := 0x00010021#32 }) State.err = some 0x10#8 ∧
      after (exec (.buildInd false) { inBreak 5 with addr := 510#32 }) State.err = some 0x08#8 := by decide

/-- Vector F12. -/
theorem test_send_starts_break :
    after (exec .send opened) (fun t => (readReg .status t, line t, t.err)) = some (0x00000013#32, false, 0#8) := by decide
/-- Vector F11. -/
theorem test_send_closed : after (exec .send closed) (fun t => (t.phase, t.err)) = some (.idle, 0x04#8) := by decide

/-! ## Registers and the bus (V-E), one step each -/

/-- Vectors E5, E8, E9, and E21. -/
theorem test_write_rules :
    after (hostWrite .brkUs 100#32 closed) State.brkUs = some 176#16 ∧
      after (hostWrite .brkUs 0x00012345#32 closed) State.brkUs = some 0x2345#16 ∧
      after (hostWrite .brkUs 0x000100AF#32 closed) State.brkUs = some 176#16 ∧
      after (hostWrite .err 0x00000041#32 { closed with err := 0xC5#8 }) State.err = some 0x84#8 := by decide
/-- Vectors E14, E15. -/
theorem test_baud_div_locks :
    after (hostWrite .baudDiv 20#32 opened) (fun t => (t.baudDiv, t.err)) = some (16#16, 0x80#8) ∧
      after (hostWrite .baudDiv 20#32 (inBreak 5)) (fun t => (t.baudDiv, t.err)) = some (16#16, 0x08#8) := by decide
/-- Vectors E23 and E24: FB[0] and FB[512] through the bus. -/
theorem test_frame_buffer_write :
    after (step (withPorts [write4 0x1000#16 0x000001AB#32] closed)) (fun t => t.fb.read 0) = some 0xAB#8 ∧
      after (step (withPorts [write4 0x1800#16 0x0000007E#32] closed)) (fun t => (t.fb.read 512, t.err)) =
        some (0x7E#8, 0#8) := by decide
/-- Vectors E25, E26, E27, E28, D15. -/
theorem test_not_admitted :
    after (step (withPorts [read4 0x1804#16] closed)) (fun t => (t.busRdata, t.err)) = some (0#32, 0x40#8) ∧
      after (step (withPorts [read4 0x0030#16] closed)) State.err = some 0x40#8 ∧
      after (step (withPorts [read4 0x0006#16] closed)) State.err = some 0x40#8 ∧
      after (step (withPorts [{ write4 0x0010#16 3#32 with size := 1#2 }] closed)) (fun t => (t.baudDiv, t.err)) =
        some (16#16, 0x40#8) ∧
      after (step (withPorts [{ write4 0x000C#16 5#32 with size := 0#2 }] opened)) (fun t => (t.phase, t.err)) =
        some (.idle, 0x40#8) := by decide
/-- Vectors E1, E18, and the layout of R22. -/
theorem test_reads :
    after (step (withPorts [read4 0x0028#16] closed)) State.busRdata = some 0x00000088#32 ∧
      after (hostWrite .ctrl 0xFFFFFFFF#32 closed) (readReg .ctrl) = some 0x00000001#32 ∧
      after (step (withPorts [read4 0x0024#16] closed)) State.busRdata = some 7#32 := by decide

/-! ## Serializer (V-G) -/

/-- The rows 0x80 and 0x2E of the slot table. -/
theorem test_slot_levels :
    (List.range 11).map (slotLevel 0x80#8) =
        [false, false, false, false, false, false, false, false, true, true, true] ∧
      (List.range 11).map (slotLevel 0x2E#8) =
        [false, false, true, true, true, false, true, false, false, true, true] := by decide
/-- V-G1, cycles n+880 to n+881, n+896 to n+897, n+1056 to n+1057. -/
theorem test_tick_status :
    readReg .status (tick (inMab 1)) = 0x00000033#32 ∧ readReg .status (tick (inData 0 0 1)) = 0x00001033#32 ∧
      readReg .status (tick (inData 0 10 1)) = 0x00010033#32 ∧ readReg .status lastCycle = 0x0200A033#32 := by decide
/-- V-G1, cycle n+91169, and vector F10: the end of a frame, without and with a deferred close. -/
theorem test_frame_end :
    readReg .status (tick lastCycle) = 0x00000001#32 ∧ (tick lastCycle).frameCnt = 8#32 ∧
      readReg .status (tick { lastCycle with closing := true }) = 0x00000000#32 := by decide
/-- Vectors F16, F17: SEND and CLOSE in the last cycle of a frame. -/
theorem test_access_in_last_cycle :
    after (step (withPorts [commandWrite 0x00000005#32] lastCycle)) (fun t => (t.phase, t.err, line t)) =
        some (.brk, 0#8, false) ∧
      after (step (withPorts [commandWrite 0x00000002#32] lastCycle)) (fun t => (readReg .status t, t.err)) =
        some (0x00000000#32, 0#8) := by decide
/-- Vector H2: reset in the break. -/
theorem test_reset_in_break :
    after (step (withPorts [resetPorts] (inBreak 5))) (fun t => (t.phase, t.isOpen, t.frameCnt, t.err, line t)) =
      some (.idle, false, 0#32, 0#8, true) := by decide
/-- The frame buffer's list keeps its canonical form: writing 0x00 removes the cell. -/
theorem test_buffer_form :
    Memory.write [(3, 9#8), (5, 1#8)] 4 7#8 = [(3, 9#8), (4, 7#8), (5, 1#8)] ∧
      Memory.write [(3, 9#8), (5, 1#8)] 3 0#8 = [(5, 1#8)] ∧ Memory.wf [(3, 9#8), (512, 1#8)] = true ∧
      Memory.wf [(3, 9#8), (3, 1#8)] = false ∧ Memory.wf [(513, 9#8)] = false ∧ Memory.wf [(3, 0#8)] = false := by decide

/-! ## Witnesses: the hypotheses of each statement are met together, each clause at the edge of its range -/

theorem inv_closed : StatusInv closed := by constructor <;> decide
theorem inv_opened : StatusInv opened := by constructor <;> decide
theorem inv_last : StatusInv lastCycle := by constructor <;> decide
theorem inv_closing : StatusInv { inData 0 0 16 with closing := true } := by constructor <;> decide
theorem inv_last_closing : StatusInv { lastCycle with closing := true } := by constructor <;> decide
theorem timer_data : TimerInv (inData 0 0 16) := by constructor <;> decide
theorem timer_last : TimerInv lastCycle := by constructor <;> decide
theorem timer_closed : TimerInv closed := by constructor <;> decide

/-- A write that `commandWrite` makes is a write to CMD. -/
theorem writes_command (w : Word) : WritesCommand (commandWrite w) w := ⟨rfl, rfl, rfl, rfl, rfl, rfl⟩
theorem last_lastCycle (q : List Ports) : LastCycle (withPorts q lastCycle) := ⟨rfl, le_refl 1, rfl, rfl⟩
theorem last_closing (q : List Ports) : LastCycle (withPorts q { lastCycle with closing := true }) :=
  ⟨rfl, le_refl 1, rfl, rfl⟩
theorem not_last (q : List Ports) : ¬LastCycle (withPorts q { inData 0 0 16 with closing := true }) :=
  fun h => absurd (show 16 ≤ 1 from h.2.1) (by decide)

theorem witness_ResetEdgeForcesResetValues :
    (withPorts [resetPorts, read4 4#16] (inBreak 5)).hostQueue = resetPorts :: [read4 4#16] ∧
      resetPorts.rst = true ∧ resetPorts.req = true := by decide

theorem witness_ResetDrawsFrameBufferAfresh :
    (withPorts [resetPorts, read4 4#16] lastCycle).hostQueue = resetPorts :: [read4 4#16] ∧ resetPorts.rst = true := by
  decide

theorem witness_DecodeIsInverseOfEncode :
    decode 0x00000104#32 = .command (.buildInd true) ∧ 0x00000104#32 = encode (.buildInd true) ∧
      decode 0x00000105#32 ≠ .command .send ∧ 0x00000105#32 ≠ encode .send := by decide

theorem witness_CommandMapWords :
    6 ≤ ((0x00000006#32 : Word).extractLsb' 0 4).toNat ∧ 6 ≤ ((0xFFFFFFFF#32 : Word).extractLsb' 0 4).toNat := by decide

/-- The edges of the two reserved fields, of the opcode range and of the G rule. -/
theorem witness_IllegalWordRaisesBadCmdOnly :
    (0x00000010#32 : Word).getLsbD 4 = true ∧ (0x00000080#32 : Word).getLsbD 7 = true ∧
      (0x00000200#32 : Word).getLsbD 9 = true ∧ (0x80000000#32 : Word).getLsbD 31 = true ∧
      6 ≤ ((0x00000006#32 : Word).extractLsb' 0 4).toNat ∧
      ((0x00000105#32 : Word).getLsbD 8 = true ∧ ((0x00000105#32 : Word).extractLsb' 0 4).toNat ≠ 4) := by decide

/-- A word that is not illegal, with G = 1. -/
theorem witness_IllegalWordRaisesBadCmdOnly_legal :
    ¬((∃ k, ((4 ≤ k ∧ k ≤ 7) ∨ (9 ≤ k ∧ k ≤ 31)) ∧ (0x00000104#32 : Word).getLsbD k = true) ∨
      6 ≤ ((0x00000104#32 : Word).extractLsb' 0 4).toNat ∨
      ((0x00000104#32 : Word).getLsbD 8 = true ∧ ((0x00000104#32 : Word).extractLsb' 0 4).toNat ≠ 4)) := by
  rintro (⟨k, hk, hb⟩ | h | h)
  · rcases hk with ⟨h1, h2⟩ | ⟨h1, h2⟩ <;> interval_cases k <;> revert hb <;> decide
  · revert h
    decide
  · revert h
    decide

theorem witness_StepPerformsDecodedCommand :
    (withPorts [commandWrite 0x00000104#32] closed).hostQueue = commandWrite 0x00000104#32 :: [] ∧
      WritesCommand (commandWrite 0x00000104#32) 0x00000104#32 ∧ decode 0x00000104#32 = .command (.buildInd true) ∧
      decodeTableWord 32 0x00000104 = some (.buildInd true) :=
  ⟨rfl, writes_command _, by decide, by decide⟩

theorem witness_CycleIsTickThenAccess :
    (currentPorts (withPorts [resetPorts] closed)).rst = true ∧ (currentPorts closed).rst = false ∧
      Ports.idle.req = false ∧ (∃ t, access Ports.idle closed = .next t) ∧
      (read4 4#16).req = true ∧ (read4 4#16).we = false ∧ admitted (read4 4#16) = some .status :=
  ⟨rfl, rfl, rfl, ⟨closed, rfl⟩, rfl, rfl, by decide⟩

/-- Cycles that are no write of OPEN, CLOSE or SEND. -/
theorem witness_CycleIsTickThenAccess_other :
    ¬WritesCommand Ports.idle 0x00000005#32 ∧ ¬WritesCommand (commandWrite 0x00000003#32) 0x00000001#32 ∧
      ¬WritesCommand (commandWrite 0x00000003#32) 0x00000002#32 := by
  refine ⟨fun h => ?_, fun h => ?_, fun h => ?_⟩
  · exact absurd h.2.1 (by decide)
  · exact absurd h.2.2.2.2.2 (by decide)
  · exact absurd h.2.2.2.2.2 (by decide)

theorem witness_ChecksumBytesFollowFormula : busy closed = false ∧ busy opened = false := by decide

/-- Two different inputs with the same low bits of the sum and of the correction term. -/
theorem witness_ChecksumClosedForms :
    mod256 (serialDelta 3080000#32 + addrDelta 1#32) = mod256 (serialDelta 3079744#32 + addrDelta 1#32) ∧
      mod256 (correction (serialDelta 3080000#32) (addrDelta 1#32)) =
        mod256 (correction (serialDelta 3079744#32) (addrDelta 1#32)) := by decide

theorem witness_BuildProgCommand :
    busy (inBreak 5) = true ∧ busy closed = false ∧ (0x00000103#32 : Word).extractLsb' 0 4 = 3#4 ∧
      (0x00000103#32 : Word) ≠ 0x00000003#32 := by decide

/-- Every field byte of the programming packet is an index of the buffer, whatever the layout, and index 0 is none. -/
theorem witness_ProgrammingPacketBytes :
    busy closed = false ∧ (∀ k ∈ Config.params.fieldBytes, ∃ i : FrameIndex, i.val = k) ∧
      (0 : FrameIndex).val ∉ Config.params.fieldBytes ∧ (0 : FrameIndex).val < Config.params.progLen := by
  obtain ⟨-, -, -, -, h2, h3, h, -⟩ := Config.params_legal
  refine ⟨rfl, fun k hk => ?_, fun h0 => absurd (h _ h0).1 (by decide), ?_⟩
  · have := (h k hk).2
    exact ⟨⟨k, by omega⟩, rfl⟩
  · show 0 < Config.params.progLen
    omega

/-- ADDR at both edges of the range, and just outside them; a word with the opcode of BUILD_IND that is none. -/
theorem witness_BuildIndCommand :
    busy (inBreak 5) = true ∧ busy closed = false ∧ (0#32 : Word).toNat < 1 ∧ 509 < (510#32 : Word).toNat ∧
      1 ≤ (1#32 : Word).toNat ∧ (509#32 : Word).toNat ≤ 509 ∧ (0x00000204#32 : Word).extractLsb' 0 4 = 4#4 ∧
      (0x00000204#32 : Word) ≠ 0x00000004#32 ∧ (0x00000204#32 : Word) ≠ 0x00000104#32 := by decide

/-- ADDR = 509: the last block, with its three indices in the buffer, and indices outside it. -/
theorem witness_IndicatorFrameBytes :
    let s : State := { closed with addr := 509#32 }
    busy s = false ∧ 1 ≤ s.addr.toNat ∧ s.addr.toNat ≤ 509 ∧ (509 : FrameIndex).val = s.addr.toNat ∧
      (510 : FrameIndex).val = s.addr.toNat + 1 ∧ (511 : FrameIndex).val = s.addr.toNat + 2 ∧
      (512 : FrameIndex).val ≠ s.addr.toNat ∧ (512 : FrameIndex).val ≠ s.addr.toNat + 1 ∧
      (512 : FrameIndex).val ≠ s.addr.toNat + 2 := by decide

theorem witness_IndicatorHas170RedBytesPlusGreen :
    busy { closed with addr := 1#32 } = false ∧ 1 ≤ (1#32 : Word).toNat ∧ (509#32 : Word).toNat ≤ 509 := by decide

/-- Two states with different buffers and equal operands, both of which accept both builders. -/
theorem witness_BuildersIgnoreEarlierBuffer :
    let s' : State := { opened with fb := [(3, 9#8)] }
    busy closed = false ∧ busy s' = false ∧ closed.serial = s'.serial ∧ closed.addr = s'.addr ∧
      1 ≤ closed.addr.toNat ∧ closed.addr.toNat ≤ 509 ∧
      (∃ t, exec .buildProg closed = .next t) ∧ (∃ t, exec .buildProg s' = .next t) ∧
      (∃ t, exec (.buildInd true) closed = .next t) ∧ (∃ t, exec (.buildInd true) s' = .next t) :=
  ⟨rfl, rfl, rfl, rfl, by decide, by decide, ⟨_, rfl⟩, ⟨_, rfl⟩, ⟨_, rfl⟩, ⟨_, rfl⟩⟩

/-- The refused builds: an ill-formed word, a busy state, and ADDR out of range, each with its next state. -/
theorem witness_BuildersIgnoreEarlierBuffer_refused :
    decode 0x00000103#32 = .illegal .strayGreen ∧ (∃ t, command 0x00000103#32 closed = .next t) ∧
      busy (inBreak 5) = true ∧ (∃ t, exec .buildProg (inBreak 5) = .next t) ∧
      (∃ t, exec (.buildInd false) (inBreak 5) = .next t) ∧ 509 < ({ closed with addr := 510#32 } : State).addr.toNat ∧
      ∃ t, exec (.buildInd true) { closed with addr := 510#32 } = .next t :=
  ⟨by decide, command_next _ _, rfl, ⟨_, rfl⟩, ⟨_, rfl⟩, by decide, ⟨_, rfl⟩⟩

theorem witness_NopDoesNothing :
    (0x00000100#32 : Word).extractLsb' 0 4 = 0#4 ∧ (0x00000100#32 : Word) ≠ 0x00000000#32 := by decide

/-- One state for each of the four clauses. -/
theorem witness_OpenCommand :
    busy (inBreak 5) = true ∧ (busy opened = false ∧ opened.isOpen = true) ∧
      (busy closed = false ∧ closed.isOpen = false ∧ ({ closed with baudDiv := 0#16 } : State).baudDiv = 0#16) ∧
      closed.baudDiv ≠ 0#16 := by decide

theorem witness_CloseCommand :
    closed.isOpen = false ∧ ({ inBreak 5 with closing := true } : State).closing = true ∧
      ((inBreak 5).isOpen = true ∧ (inBreak 5).closing = false ∧ busy (inBreak 5) = true) ∧
      (opened.isOpen = true ∧ opened.closing = false ∧ busy opened = false) := by decide

theorem witness_SendCommand :
    busy (inBreak 5) = true ∧ (busy closed = false ∧ closed.isOpen = false) ∧
      (busy opened = false ∧ opened.isOpen = true) := by decide

/-- A command with its next state, for each clause's command. -/
theorem witness_CommandFrames :
    (∃ t, exec .nop closed = .next t) ∧ (∃ t, exec .openPort closed = .next t) ∧ (∃ t, exec .closePort opened = .next t) ∧
      (∃ t, exec .buildProg closed = .next t) ∧ (∃ t, exec (.buildInd true) closed = .next t) ∧
      ∃ t, exec .send opened = .next t :=
  ⟨⟨_, rfl⟩, ⟨_, rfl⟩, ⟨_, rfl⟩, ⟨_, rfl⟩, ⟨_, rfl⟩, ⟨_, rfl⟩⟩

theorem witness_BreakAndMabTimers :
    closed.phase = .idle ∧ ((inBreak 2).phase = .brk ∧ 1 < (inBreak 2).rem) ∧
      ((inBreak 1).phase = .brk ∧ (inBreak 1).rem ≤ 1) ∧ ((inMab 2).phase = .mab ∧ 1 < (inMab 2).rem) ∧
      ((inMab 1).phase = .mab ∧ (inMab 1).rem ≤ 1) ∧ StatusInv opened ∧ busy opened = false ∧ opened.isOpen = true ∧
      0 < opened.brkUs.toNat * Config.usDiv ∧ 0 < opened.mabUs.toNat * Config.usDiv :=
  ⟨rfl, ⟨rfl, by decide⟩, ⟨rfl, by decide⟩, ⟨rfl, by decide⟩, ⟨rfl, by decide⟩, inv_opened, rfl, rfl,
    Nat.mul_pos (by decide) Config.usDiv_pos, Nat.mul_pos (by decide) Config.usDiv_pos⟩

/-- A step in which a frame starts. -/
theorem witness_BreakAndMabTimers_start :
    let s := withPorts [commandWrite 0x00000005#32] opened
    busy (tick s) = false ∧ ∃ t, step s = .next t ∧ busy t = true :=
  ⟨rfl, _, rfl, rfl⟩

theorem witness_BaudTimerAndFrameEnd :
    (inData 0 0 16).phase = .data ∧ 1 < (inData 0 0 2).rem ∧ ((inData 0 9 1).rem ≤ 1 ∧ (inData 0 9 1).bit.val < 10) ∧
      ((inData 511 10 1).bit.val = 10 ∧ (inData 511 10 1).byte.val < 512) ∧
      (lastCycle.rem ≤ 1 ∧ lastCycle.bit.val = 10 ∧ lastCycle.byte.val = 512) ∧
      ((inData 0 0 16).byte = 0 ∧ (inData 0 0 16).bit = 0 ∧ (inData 0 0 16).rem = (inData 0 0 16).baudDiv.toNat ∧
        (inData 0 0 16).baudDiv ≠ 0#16 ∧ 15 < (inData 0 0 16).baudDiv.toNat) := by decide

theorem witness_LineLevels :
    closed.phase = .idle ∧ (inBreak 1).phase = .brk ∧ (inMab 1).phase = .mab ∧ (inData 0 0 1).phase = .data ∧
      (inData 0 0 1).bit.val = 0 ∧ (inData 0 1 1).bit.val = 1 ∧ (inData 0 8 1).bit.val = 8 ∧ (inData 0 9 1).bit.val = 9 ∧
      (inData 0 10 1).bit.val = 10 := by decide

theorem witness_FrameWaveform :
    let s := withPorts [commandWrite 0x00000005#32, read4 4#16] opened
    StatusInv s ∧ s.hostQueue = commandWrite 0x00000005#32 :: [read4 4#16] ∧
      WritesCommand (commandWrite 0x00000005#32) 0x00000005#32 ∧ busy (tick s) = false ∧ (tick s).isOpen = true ∧
      NoReset [read4 4#16] ∧ 0 < s.brkUs.toNat * Config.usDiv ∧ 0 < s.mabUs.toNat * Config.usDiv ∧
      15 < s.baudDiv.toNat ∧ NoSend (List.drop 1 [read4 4#16]) := by
  refine ⟨by constructor <;> decide, rfl, writes_command _, rfl, rfl, ?_, ?_, ?_, by decide, ?_⟩
  · intro p hp
    simp at hp
    subst hp
    rfl
  · exact Nat.mul_pos (by decide) Config.usDiv_pos
  · exact Nat.mul_pos (by decide) Config.usDiv_pos
  · intro p hp
    simp at hp

theorem witness_IdleLineStaysAtMark :
    busy closed = false ∧ NoSend closed.hostQueue ∧ Runs 1 closed closed :=
  ⟨rfl, fun _ hp => absurd hp List.not_mem_nil, closed, rfl, rfl⟩

theorem witness_BackToBackSendStartsBreakAtOnce :
    let s := withPorts [commandWrite 0x00000005#32] lastCycle
    s.hostQueue = commandWrite 0x00000005#32 :: [] ∧ WritesCommand (commandWrite 0x00000005#32) 0x00000005#32 ∧
      LastCycle s ∧ s.isOpen = true ∧ s.closing = false :=
  ⟨rfl, writes_command _, last_lastCycle _, rfl, rfl⟩

/-- A closing frame in its first data cycle and in its last one. -/
theorem witness_DeferredCloseWaitsForFrameEnd :
    (busy (inBreak 5) = true ∧ (inBreak 5).isOpen = true ∧ (inBreak 5).closing = false) ∧
      (let s := withPorts [] { inData 0 0 16 with closing := true }
       StatusInv s ∧ busy s = true ∧ s.closing = true ∧ (currentPorts s).rst = false ∧ (∃ t, step s = .next t) ∧
         ¬LastCycle s) ∧
      let s := withPorts [] { lastCycle with closing := true }
      StatusInv s ∧ s.closing = true ∧ (currentPorts s).rst = false ∧ (∃ t, step s = .next t) ∧ LastCycle s ∧
        ¬WritesCommand (currentPorts s) 0x00000001#32 :=
  ⟨⟨rfl, rfl, rfl⟩, ⟨inv_closing, rfl, rfl, rfl, step_next _, not_last _⟩, inv_last_closing, rfl, rfl, step_next _,
    last_closing _, fun h => absurd h.2.1 (by decide)⟩

/-- The common setting, 4 MHz, is a multiple of 1 MHz and of 250 kHz; 3686400 Hz is neither. -/
theorem witness_BreakAndMabMeetTheirMinima :
    StatusInv closed ∧ Params.sample.Legal ∧ Params.sample.fBaseHz % 1000000 = 0 := ⟨inv_closed, Params.sample_legal, rfl⟩

theorem witness_ResetBitRate :
    Params.sample.Legal ∧ Params.sample.fBaseHz % 250000 = 0 ∧
      ({ Params.sample with fBaseHz := 3686400 } : Params).Legal ∧ 3686400 % 250000 ≠ 0 :=
  ⟨Params.sample_legal, rfl, by decide, by decide⟩

/-- An admitted read, a read that is not admitted, and a cycle that is no read. -/
theorem witness_ReadDataComesInNextCycle :
    (let s := withPorts [read4 4#16] lastCycle
     (∃ t, step s = .next t) ∧ (currentPorts s).rst = false ∧ (currentPorts s).req = true ∧
       (currentPorts s).we = false ∧ admitted (currentPorts s) = some .status) ∧
      (let s := withPorts [read4 0x0030#16] closed
       (∃ t, step s = .next t) ∧ (currentPorts s).req = true ∧ admitted (currentPorts s) = none) ∧
      (∃ t, step closed = .next t) ∧ (currentPorts closed).req = false :=
  ⟨⟨step_next _, rfl, rfl, rfl, by decide⟩, ⟨step_next _, rfl, by decide⟩, step_next _, rfl⟩

/-- The last admitted offsets of both mapped ranges and the first offsets beyond them. -/
theorem witness_UnadmittedAccessRaisesBusOnly :
    let good (p : Ports) : Prop := p.size = 2#2 ∧ p.addr.toNat % 4 = 0 ∧
      (p.addr.toNat ≤ 0x002F ∨ (0x1000 ≤ p.addr.toNat ∧ p.addr.toNat ≤ 0x1803))
    (currentPorts (withPorts [read4 0x002C#16] closed)).rst = false ∧
      (currentPorts (withPorts [read4 0x002C#16] closed)).req = true ∧
      good (read4 0x0000#16) ∧ good (read4 0x002C#16) ∧ good (read4 0x1000#16) ∧ good (read4 0x1800#16) ∧
      ¬good (read4 0x0030#16) ∧ ¬good (read4 0x0FFC#16) ∧ ¬good (read4 0x1804#16) ∧ ¬good (read4 0x002E#16) ∧
      ¬good { read4 0x0000#16 with size := 3#2 } := by decide

/-- The first and last offset of each range of the map. -/
theorem witness_AddressMap :
    (0x0003#16 : Half).toNat / 4 = 0x0000 / 4 ∧ (0x002F#16 : Half).toNat / 4 = 0x002C / 4 ∧
      (0x1803#16 : Half).toNat / 4 = (0x1000 + 4 * (512 : FrameIndex).val) / 4 ∧
      0x0030 ≤ (0x0030#16 : Half).toNat ∧ (0x0FFF#16 : Half).toNat ≤ 0x0FFF ∧ 0x1804 ≤ (0x1804#16 : Half).toNat := by
  decide

theorem witness_StatusFields :
    closed.phase = .idle ∧ (inBreak 1).phase = .brk ∧ (inMab 1).phase = .mab ∧ lastCycle.phase = .data := by decide

/-- Two words that agree in the bits a register keeps and differ in its reserved bits. -/
theorem witness_ReservedBitsAndReadOnlyRegisters :
    (0xFFFFFFFF#32 : Word).getLsbD 0 = (0x00000001#32 : Word).getLsbD 0 ∧
      (0xFFFFFF41#32 : Word).extractLsb' 0 8 = (0x00000041#32 : Word).extractLsb' 0 8 ∧
      (0x00012345#32 : Word).extractLsb' 0 16 = (0x00002345#32 : Word).extractLsb' 0 16 := by decide

theorem witness_CtrlWriteSetsRts :
    busy { closed with rts := true } = false ∧ ({ closed with rts := true } : State).isOpen = false ∧
      ({ closed with rts := true } : State).baudDiv ≠ 0#16 := by decide

/-- A state for each clause; the last bit of the last slot is the edge of the duration clause. -/
theorem witness_BaudDivWrite :
    busy (inBreak 5) = true ∧ (busy opened = false ∧ opened.isOpen = true) ∧
      (busy closed = false ∧ closed.isOpen = false ∧ ({ closed with baudDiv := 0#16 } : State).baudDiv = 0#16) ∧
      ((inData 512 10 16).phase = .data ∧ (inData 512 10 16).baudDiv ≠ 0#16 ∧
        (inData 512 10 16).rem = (inData 512 10 16).baudDiv.toNat ∧ 15 < (inData 512 10 16).baudDiv.toNat) := by decide

theorem witness_BreakAndMabWrites :
    busy (inBreak 5) = true ∧ (busy opened = false ∧ opened.isOpen = true) ∧
      ((inBreak 1).phase = .brk ∧ (inBreak 1).rem ≤ 1) := by decide

theorem witness_FrameBufferWrite :
    busy (inBreak 5) = true ∧ busy closed = false ∧ (511 : FrameIndex) ≠ 512 := by decide

theorem witness_HardwiredAndChecksumReads :
    decode 0x00000005#32 = .command .send ∧ decode 0x00000006#32 = .illegal .reservedOpcode := by decide

theorem witness_WritesAreIdempotentButCommandsAreNot :
    (Reg.frame 512 ≠ .cmd ∧ ∃ t, hostWrite (.frame 512) 0x7E#32 closed = .next t) ∧
      let s := withPorts [commandWrite 0x00000005#32, commandWrite 0x00000005#32] opened
      StatusInv s ∧ s.hostQueue = commandWrite 0x00000005#32 :: commandWrite 0x00000005#32 :: [] ∧
        WritesCommand (commandWrite 0x00000005#32) 0x00000005#32 ∧ busy (tick s) = false ∧ (tick s).isOpen = true :=
  ⟨⟨by decide, hostWrite_next _ _ _⟩, by constructor <;> decide, rfl, writes_command _, rfl, rfl⟩

theorem witness_RegisterWriteFrames :
    (Reg.baudDiv ≠ .cmd ∧ ∃ t, hostWrite .baudDiv 20#32 opened = .next t) ∧
      (Reg.frame 0 ≠ .cmd ∧ Reg.frame 0 ≠ .frame 512 ∧ ∃ t, hostWrite (.frame 0) 20#32 closed = .next t) :=
  ⟨⟨by decide, hostWrite_next _ _ _⟩, by decide, by decide, hostWrite_next _ _ _⟩

theorem witness_StatusReadLatency :
    (let s := withPorts [commandWrite 0x00000005#32, read4 4#16] opened
     s.hostQueue = commandWrite 0x00000005#32 :: read4 4#16 :: [] ∧
       WritesCommand (commandWrite 0x00000005#32) 0x00000005#32 ∧ busy (tick s) = false ∧ (tick s).isOpen = true) ∧
      ((read4 4#16).rst = false ∧ (read4 4#16).req = true ∧ (read4 4#16).we = false ∧
        admitted (read4 4#16) = some .status) ∧
      LastCycle (withPorts [read4 4#16] lastCycle) :=
  ⟨⟨rfl, writes_command _, rfl, rfl⟩, ⟨rfl, rfl, rfl, by decide⟩, last_lastCycle _⟩

/-- A step that sets the first and one that sets the last ERR bit. -/
theorem witness_RefusedAccessHasNoOtherEffect :
    (after (step (withPorts [commandWrite 0x00000001#32] opened)) (fun t => t.err.getLsbD 0) = some true ∧
      opened.err.getLsbD 0 = false) ∧
      (after (step (withPorts [write4 0x0010#16 20#32] opened)) (fun t => t.err.getLsbD 7) = some true ∧
        opened.err.getLsbD 7 = false) := by decide

/-- A step that clears an ERR bit by a write, and one that clears it by reset. -/
theorem witness_ErrorBitsAreSticky :
    ErrBit.devOpen ≠ .locked ∧
      (let s := withPorts [write4 0x0008#16 0x00000080#32] { closed with err := 0xC5#8 }
       s.err.getLsbD 7 = true ∧ after (step s) (fun t => t.err.getLsbD 7) = some false) ∧
      let s := withPorts [resetPorts] { closed with err := 0xC5#8 }
      s.err.getLsbD 0 = true ∧ after (step s) (fun t => t.err.getLsbD 0) = some false := by decide

theorem witness_BusyRefusals :
    busy (inBreak 5) = true ∧ busy lastCycle = true ∧ (∃ t, exec .closePort (inBreak 5) = .next t) ∧
      ∃ t, hostWrite .err 0x00000001#32 (inBreak 5) = .next t := ⟨rfl, rfl, ⟨_, rfl⟩, hostWrite_next _ _ _⟩

/-- A state, word or access for each line of the priority list. -/
theorem witness_ErrorPriority :
    ((read4 0x0030#16).req = true ∧ admitted (read4 0x0030#16) = none) ∧
      decode 0x00000006#32 = .illegal .reservedOpcode ∧
      (decode 0x00000001#32 = .command .openPort ∧ busy (inBreak 5) = true ∧ Instr.openPort ≠ .nop ∧
        Instr.openPort ≠ .closePort) ∧
      (busy opened = false ∧ opened.isOpen = true) ∧
      (busy closed = false ∧ closed.isOpen = false ∧ ({ closed with baudDiv := 0#16 } : State).baudDiv = 0#16) ∧
      ({ inBreak 5 with closing := true } : State).closing = true ∧
      509 < ({ closed with addr := 510#32 } : State).addr.toNat ∧ (currentPorts (withPorts [resetPorts] closed)).rst = true := by
  decide

theorem witness_ErrorPriority_frame_end :
    (∃ t, exec .buildProg closed = .next t) ∧
      let s := withPorts [commandWrite 0x00000005#32] lastCycle
      (currentPorts s).rst = false ∧ LastCycle s := ⟨⟨_, rfl⟩, rfl, last_lastCycle _⟩

theorem witness_StepKeepsStatusInvariants :
    (StatusInv lastCycle ∧ ∃ t, step lastCycle = .next t) ∧ StatusInv closed ∧ Runs 1 closed closed :=
  ⟨⟨inv_last, step_next _⟩, inv_closed, closed, rfl, rfl⟩

theorem witness_StepKeepsTimerInRange :
    (StatusInv lastCycle ∧ TimerInv lastCycle ∧ ∃ t, step lastCycle = .next t) ∧ StatusInv closed ∧ TimerInv closed ∧
      TimerInv (inData 0 0 16) := ⟨⟨inv_last, timer_last, step_next _⟩, inv_closed, timer_closed, timer_data⟩

theorem witness_StepKeepsFrameBufferCanonical :
    let s := withPorts [write4 0x1800#16 0#32] { closed with fb := [(0, 1#8), (512, 7#8)] }
    s.fb.wf = true ∧ (∃ t, step s = .next t) ∧ ∃ t, hostWrite (.frame 512) 0#32 s = .next t :=
  ⟨by decide, step_next _, hostWrite_next _ _ _⟩

/-- A step that sets OPEN, and three that clear it: by CLOSE, by the end of a closing frame, by reset. -/
theorem witness_OpenBitChangesOnlyByOpenAndClose :
    (after (step (withPorts [commandWrite 0x00000001#32] closed)) State.isOpen = some true ∧ closed.isOpen = false) ∧
      (after (step (withPorts [commandWrite 0x00000002#32] opened)) State.isOpen = some false ∧ opened.isOpen = true) ∧
      (after (step { lastCycle with closing := true }) State.isOpen = some false ∧ lastCycle.isOpen = true) ∧
      after (step (withPorts [resetPorts] opened)) State.isOpen = some false := by decide

/-- FRAMECNT at its last value, in the last cycle of a frame. -/
theorem witness_FrameCountAdvancesOnlyAtFrameEnd :
    let s := withPorts [] { lastCycle with frameCnt := 0xFFFFFFFF#32 }
    (∃ t, step s = .next t) ∧ (currentPorts s).rst = false ∧ LastCycle s ∧
      (currentPorts (withPorts [resetPorts] s)).rst = true ∧ ¬LastCycle (withPorts [] { inData 0 0 16 with closing := true }) :=
  ⟨step_next _, rfl, ⟨rfl, le_refl 1, rfl, rfl⟩, rfl, not_last _⟩

theorem witness_ChecksumRegisterChangesOnlyByBuildProg :
    (let s := withPorts [commandWrite 0x00000003#32] closed
     after (step s) State.ck1 = some 0xBE#8 ∧ s.ck1 = 0#8 ∧ busy (tick s) = false) ∧
      after (step (withPorts [resetPorts] { closed with ck2 := 1#8 })) State.ck2 = some 0#8 := by decide

theorem witness_ChecksumRegisterChangesOnlyByBuildProg_write :
    WritesCommand (currentPorts (withPorts [commandWrite 0x00000003#32] closed)) 0x00000003#32 := writes_command _

theorem witness_FrameInputsAreFixedWhileBusy :
    let s := withPorts [write4 0x1000#16 9#32] (inBreak 2)
    (∃ t, step s = .next t) ∧ (currentPorts s).rst = false ∧ busy (tick s) = true := ⟨step_next _, rfl, rfl⟩

end Sys2Proof.Tests
end

namespace Sys2Proof.Machine

/-! What a command word decodes to, and which state only a command can change. -/

/-- A word that decodes to a command carries that command's opcode and flag (30_encoding.md R101, R102). -/
theorem fields_of_decode {w : Word} {i : Instr} (h : decode w = .command i) :
    w &&& reservedMask = 0#32 ∧ opField w = opcodeOf i ∧ greenField w = greenOf i := by
  unfold decode at h
  split at h
  · cases h
  next hres =>
  refine ⟨not_not.1 hres, ?_⟩
  split at h
  · cases h
  split at h
  · cases h
  next hgreen =>
  split at h <;> cases h
  case h_5 hop => exact ⟨BitVec.eq_of_toNat_eq hop, rfl⟩
  all_goals
    next hop => exact ⟨BitVec.eq_of_toNat_eq hop, (by simpa [hop] using hgreen : greenField w = false)⟩

/-- A word that decodes to a command is that command's word (30_encoding.md R100 to R102). -/
theorem eq_encode_of_decode {w : Word} {i : Instr} (h : decode w = .command i) : w = encode i := by
  obtain ⟨hres, hop, hgreen⟩ := fields_of_decode h
  rw [word_of_fields hres, hop, hgreen]
  rfl

/-- `s` and `t` agree on what a command can change and no other access can: OPEN and CLOSING, the sequencing fields, and
the checksum bytes. -/
structure SameCommandState (s t : State) : Prop where
  isOpen : t.isOpen = s.isOpen
  closing : t.closing = s.closing
  phase : t.phase = s.phase
  rem : t.rem = s.rem
  bit : t.bit = s.bit
  byte : t.byte = s.byte
  ck1 : t.ck1 = s.ck1
  ck2 : t.ck2 = s.ck2

/-- An admitted write performs the command that CMD is written with, or changes nothing that only commands change. -/
theorem hostWrite_command_or_same {r : Reg} {w : Word} {s t : State} (h : hostWrite r w s = .next t) :
    (r = .cmd ∧ ∃ i, w = encode i ∧ exec i s = .next t) ∨ SameCommandState s t := by
  rcases hostWrite_cases h with ⟨e, rfl, -⟩ | ⟨-, rfl⟩ | ⟨-, rfl⟩ | ⟨-, rfl⟩ | ⟨hr, i, hd, hx⟩ | ⟨-, -, -, rfl⟩ |
    ⟨-, -, rfl⟩ | ⟨-, -, rfl⟩ | ⟨-, rfl⟩ | ⟨-, rfl⟩ | ⟨i, -, -, rfl⟩
  case inr.inr.inr.inr.inl => exact .inl ⟨hr, i, eq_encode_of_decode hd, hx⟩
  all_goals exact .inr ⟨rfl, rfl, rfl, rfl, rfl, rfl, rfl, rfl⟩

/-- An access performs a command whose word it writes to CMD, or changes nothing that only commands change. -/
theorem access_command_or_same {p : Ports} {s t : State} (hr : p.rst = false) (h : access p s = .next t) :
    (∃ i, WritesCommand p (encode i) ∧ exec i s = .next t) ∨ SameCommandState s t := by
  rcases access_cases h with ⟨-, rfl⟩ | ⟨-, -, rfl⟩ | ⟨-, -, r, -, rfl⟩ | ⟨hq, hw, r, ha, h⟩
  · exact .inr ⟨rfl, rfl, rfl, rfl, rfl, rfl, rfl, rfl⟩
  · exact .inr ⟨rfl, rfl, rfl, rfl, rfl, rfl, rfl, rfl⟩
  · exact .inr ⟨rfl, rfl, rfl, rfl, rfl, rfl, rfl, rfl⟩
  · rcases hostWrite_command_or_same h with ⟨rfl, i, hi, hx⟩ | hsame
    · exact .inl ⟨i, hi ▸ writesCommand_of_admitted hr hq hw ha, hx⟩
    · exact .inr hsame

/-- Only OPEN and CLOSE change the OPEN bit, each in the direction of its name (41_transport.md R162, R163). -/
theorem exec_isOpen_cases {i : Instr} {s t : State} (h : exec i s = .next t) :
    t.isOpen = s.isOpen ∨
    (i = .openPort ∧ busy s = false ∧ s.baudDiv ≠ 0#16 ∧ t.isOpen = true ∧ t.rts = false) ∨
    (i = .closePort ∧ t.isOpen = false) := by
  rcases exec_cases h with ⟨e, rfl⟩ | ⟨-, rfl⟩ | ⟨hi, hb, -, hd, rfl⟩ | ⟨hi, -, -, ⟨-, rfl⟩ | ⟨-, rfl⟩⟩ |
    ⟨-, -, rfl⟩ | ⟨g, -, -, -, -, rfl⟩ | ⟨-, -, -, rfl⟩
  case inr.inr.inl => exact .inr (.inl ⟨hi, hb, hd, rfl, rfl⟩)
  case inr.inr.inr.inl.inr => exact .inr (.inr ⟨hi, rfl⟩)
  all_goals exact .inl rfl

/-- Only an accepted BUILD_PROG changes the checksum bytes (40_packet_builder.md R131). -/
theorem exec_checksum_cases {i : Instr} {s t : State} (h : exec i s = .next t) :
    (t.ck1 = s.ck1 ∧ t.ck2 = s.ck2) ∨
    (i = .buildProg ∧ busy s = false ∧ t.ck1 = checksum1 s.serial s.addr ∧ t.ck2 = checksum2 s.serial s.addr) := by
  rcases exec_cases h with ⟨e, rfl⟩ | ⟨-, rfl⟩ | ⟨-, -, -, -, rfl⟩ | ⟨-, -, -, ⟨-, rfl⟩ | ⟨-, rfl⟩⟩ |
    ⟨hi, hb, rfl⟩ | ⟨g, -, -, -, -, rfl⟩ | ⟨-, -, -, rfl⟩
  case inr.inr.inr.inr.inl => exact .inr ⟨hi, hb, rfl, rfl⟩
  all_goals exact .inl ⟨rfl, rfl⟩

/-- An access and the OPEN bit: kept, set by an accepted OPEN, or cleared by a CLOSE (10_state.md R31). -/
theorem access_isOpen_cases {p : Ports} {s t : State} (hr : p.rst = false) (h : access p s = .next t) :
    t.isOpen = s.isOpen ∨
    (WritesCommand p (encode .openPort) ∧ busy s = false ∧ s.baudDiv ≠ 0#16 ∧ t.isOpen = true ∧ t.rts = false) ∨
    (WritesCommand p (encode .closePort) ∧ t.isOpen = false) := by
  rcases access_command_or_same hr h with ⟨i, hp, hx⟩ | hsame
  · rcases exec_isOpen_cases hx with hk | ⟨rfl, hopen⟩ | ⟨rfl, hclose⟩
    · exact .inl hk
    · exact .inr (.inl ⟨hp, hopen⟩)
    · exact .inr (.inr ⟨hp, hclose⟩)
  · exact .inl hsame.isOpen

/-- An access and the checksum bytes: kept, or those of an accepted BUILD_PROG (10_state.md R44). -/
theorem access_checksum_cases {p : Ports} {s t : State} (hr : p.rst = false) (h : access p s = .next t) :
    (t.ck1 = s.ck1 ∧ t.ck2 = s.ck2) ∨
    (WritesCommand p (encode .buildProg) ∧ busy s = false ∧ t.ck1 = checksum1 s.serial s.addr ∧
      t.ck2 = checksum2 s.serial s.addr) := by
  rcases access_command_or_same hr h with ⟨i, hp, hx⟩ | hsame
  · rcases exec_checksum_cases hx with hk | ⟨rfl, hbuild⟩
    · exact .inl hk
    · exact .inr ⟨hp, hbuild⟩
  · exact .inl ⟨hsame.ck1, hsame.ck2⟩

/-! What a tick does to OPEN, FRAMECNT and BIT (42_serializer.md R184, R186). -/

/-- A tick keeps the OPEN bit, or ends a frame with a deferred close. -/
theorem tick_isOpen_cases (s : State) :
    (tick s).isOpen = s.isOpen ∨ (LastCycle s ∧ s.closing = true ∧ (tick s).isOpen = false) := by
  rcases tick_cases s with ⟨-, h⟩ | ⟨-, -, h⟩ | ⟨-, -, h⟩ | ⟨-, -, h⟩ | ⟨hb, -, -, h⟩ | ⟨hy, -, -, -, h⟩ | ⟨hl, h⟩
  case inr.inr.inr.inr.inr.inr =>
    cases hc : s.closing
    · exact .inl (by simp [h, hc])
    · exact .inr ⟨hl, rfl, by simp [h, hc]⟩
  all_goals exact .inl (by rw [h])

theorem tick_frameCnt_of_lastCycle {s : State} (h : LastCycle s) : (tick s).frameCnt = s.frameCnt + 1#32 := by
  rw [tick_end h]

theorem tick_frameCnt_of_not_lastCycle {s : State} (hl : ¬LastCycle s) : (tick s).frameCnt = s.frameCnt := by
  rcases tick_cases s with ⟨-, h⟩ | ⟨-, -, h⟩ | ⟨-, -, h⟩ | ⟨-, -, h⟩ | ⟨hb, -, -, h⟩ | ⟨hy, -, -, -, h⟩ | ⟨hlast, -⟩
  case inr.inr.inr.inr.inr.inr => exact absurd hlast hl
  all_goals rw [h]

/-- The last cycle of a bit leaves that bit: to the next one, or from the second stop bit to bit 0. -/
theorem tick_bit_ne {s : State} (hp : s.phase = .data) (hr : s.rem ≤ 1) : (tick s).bit ≠ s.bit := by
  rcases tick_cases s with ⟨h, -⟩ | ⟨-, h, -⟩ | ⟨h, -⟩ | ⟨h, -⟩ | ⟨hb, -, -, h⟩ | ⟨hy, -, -, hb, h⟩ |
    ⟨⟨-, -, hb, -⟩, h⟩
  · simp [hp] at h
  · omega
  · simp [hp] at h
  · simp [hp] at h
  all_goals
    rw [h, ne_eq, Fin.ext_iff]
    simp [hb]

/-! What the reset edge leaves (10_state.md R50). -/

/-- The reset divisor fits its field. -/
theorem afterReset_baudDiv_toNat (n : Nat) (queue : List Ports) :
    (State.afterReset n queue).baudDiv.toNat = Config.params.fBaseHz / 250000 := by
  have hlt : Config.baudDivRst < 2 ^ 16 := Nat.lt_of_le_of_lt Config.baudDivRst_le (by decide)
  exact (BitVec.toNat_ofNat _ _).trans (Nat.mod_eq_of_lt hlt)

theorem afterReset_hasResetValues (n : Nat) (queue : List Ports) : HasResetValues (State.afterReset n queue) where
  rts := rfl
  isOpen := rfl
  closing := rfl
  phase := rfl
  rem := rfl
  bit := rfl
  byte := rfl
  err := rfl
  baudDiv := afterReset_baudDiv_toNat n queue
  brkUs := rfl
  mabUs := rfl
  serial := rfl
  addr := rfl
  frameCnt := rfl
  ck1 := rfl
  ck2 := rfl
  tx_mark := rfl
  rts_low := rfl
  rdata_zero := rfl

/-! The bits of the registers that a host reads (10_state.md R23, R24, R30, R43, R44). -/

theorem flagAt_getLsbD (j k : Nat) (b : Bool) :
    (flagAt j b).getLsbD k = (b && decide (k < 32) && decide (k = j)) := by
  cases b
  · simp [flagAt]
  · by_cases h : k = j
    · simp [flagAt, h]
    · simp [flagAt, h]
      omega

/-- A register that holds a narrower field reads 0 above it. -/
theorem getLsbD_setWidth_of_field_le {n k : Nat} (x : BitVec n) (m : Nat) (h : n ≤ k) :
    (x.setWidth m).getLsbD k = false := by
  simp [BitVec.getLsbD_of_ge x k h]

/-- A number that fits a field, written into a wider register, is the field zero-extended. -/
theorem ofNat_eq_setWidth_ofNat {n m x : Nat} (hnm : n ≤ m) (hx : x < 2 ^ n) :
    BitVec.ofNat m x = (BitVec.ofNat n x).setWidth m := by
  apply BitVec.eq_of_toNat_eq
  simp [Nat.mod_eq_of_lt hx, Nat.mod_eq_of_lt (lt_of_lt_of_le hx (Nat.pow_le_pow_right (by decide) hnm))]

/-- STATUS bit by bit, each field at its offset (10_state.md R30). -/
theorem statusWord_getLsbD (s : State) {k : Nat} (hk : k < 32) :
    (statusWord s).getLsbD k =
      ((s.isOpen && decide (k = 0)) || (busy s && decide (k = 1)) || (s.closing && decide (k = 2)) ||
        (decide (4 ≤ k) && (phaseCode s.phase).getLsbD (k - 4)) ||
        (decide (12 ≤ k) && (BitVec.ofNat 4 s.bit.val).getLsbD (k - 12)) ||
        (decide (16 ≤ k) && (BitVec.ofNat 10 s.byte.val).getLsbD (k - 16))) := by
  have hbit : BitVec.ofNat 32 s.bit.val = (BitVec.ofNat 4 s.bit.val).setWidth 32 :=
    ofNat_eq_setWidth_ofNat (by decide) (by omega)
  have hbyte : BitVec.ofNat 32 s.byte.val = (BitVec.ofNat 10 s.byte.val).setWidth 32 :=
    ofNat_eq_setWidth_ofNat (by decide) (by omega)
  have h4 : k - 4 < 32 := by omega
  have h12 : k - 12 < 32 := by omega
  have h16 : k - 16 < 32 := by omega
  simp only [statusWord, hbit, hbyte, BitVec.getLsbD_or, flagAt_getLsbD, BitVec.getLsbD_shiftLeft,
    BitVec.getLsbD_setWidth, hk, h4, h12, h16, decide_true, Bool.true_and, Bool.and_true, ← decide_not, not_lt]

/-- Above PHASE, STATUS holds only BIT and BYTE. -/
theorem statusWord_getLsbD_above_phase (s : State) {k : Nat} (h6 : 6 ≤ k) (hk : k < 32) :
    (statusWord s).getLsbD k =
      ((decide (12 ≤ k) && (BitVec.ofNat 4 s.bit.val).getLsbD (k - 12)) ||
        (decide (16 ≤ k) && (BitVec.ofNat 10 s.byte.val).getLsbD (k - 16))) := by
  have h0 : k ≠ 0 := by omega
  have h1 : k ≠ 1 := by omega
  have h2 : k ≠ 2 := by omega
  have hp : (phaseCode s.phase).getLsbD (k - 4) = false := BitVec.getLsbD_of_ge _ _ (by omega)
  simp only [statusWord_getLsbD s hk, h0, h1, h2, hp, decide_false, Bool.and_false, Bool.or_false, Bool.false_or]

/-- The bits of STATUS that no field names read 0 (10_state.md R23, R30). -/
theorem statusWord_reserved (s : State) {k : Nat} (h : k = 3 ∨ (6 ≤ k ∧ k ≤ 11) ∨ 26 ≤ k) :
    (statusWord s).getLsbD k = false := by
  rcases Nat.lt_or_ge k 32 with hk | hk
  · rcases h with rfl | ⟨h6, h11⟩ | h26
    · rw [statusWord_getLsbD s hk]
      simp
    · rw [statusWord_getLsbD_above_phase s h6 hk, decide_eq_false (by omega), decide_eq_false (by omega)]
      rfl
    · rw [statusWord_getLsbD_above_phase s (by omega) hk, BitVec.getLsbD_of_ge _ _ (by omega),
        BitVec.getLsbD_of_ge _ _ (by omega), Bool.and_false, Bool.and_false, Bool.or_false]
  · exact BitVec.getLsbD_of_ge _ _ hk

/-- A run of reserved bits of STATUS reads 0. -/
theorem statusWord_reserved_field (s : State) {start len : Nat}
    (h : ∀ j < len, start + j = 3 ∨ (6 ≤ start + j ∧ start + j ≤ 11) ∨ 26 ≤ start + j) :
    (statusWord s).extractLsb' start len = 0#len := by
  apply BitVec.eq_of_getLsbD_eq
  intro j hj
  rw [BitVec.getLsbD_extractLsb', statusWord_reserved s (h j hj), Bool.and_false, BitVec.getLsbD_zero]

/-- OPEN, BUSY and CLOSING in STATUS. -/
theorem statusWord_open (s : State) : (statusWord s).getLsbD 0 = s.isOpen := by
  rw [statusWord_getLsbD s (by decide)]
  simp

theorem statusWord_busy (s : State) : (statusWord s).getLsbD 1 = busy s := by
  rw [statusWord_getLsbD s (by decide)]
  simp

theorem statusWord_closing (s : State) : (statusWord s).getLsbD 2 = s.closing := by
  rw [statusWord_getLsbD s (by decide)]
  simp

/-- PHASE in STATUS. -/
theorem statusWord_phase (s : State) : (statusWord s).extractLsb' 4 2 = phaseCode s.phase := by
  apply BitVec.eq_of_getLsbD_eq
  intro j hj
  rw [BitVec.getLsbD_extractLsb', statusWord_getLsbD s (by omega)]
  interval_cases j <;> simp

/-- BIT in STATUS. -/
theorem statusWord_bit (s : State) : ((statusWord s).extractLsb' 12 4).toNat = s.bit.val := by
  have hfield : (statusWord s).extractLsb' 12 4 = BitVec.ofNat 4 s.bit.val := by
    apply BitVec.eq_of_getLsbD_eq
    intro j hj
    have h16 : ¬16 ≤ 12 + j := by omega
    rw [BitVec.getLsbD_extractLsb', statusWord_getLsbD_above_phase s (by omega) (by omega), Nat.add_sub_cancel_left]
    simp [hj, h16]
  rw [hfield]
  exact (BitVec.toNat_ofNat _ _).trans (Nat.mod_eq_of_lt (lt_trans s.bit.isLt (by decide)))

/-- BYTE in STATUS. -/
theorem statusWord_byte (s : State) : ((statusWord s).extractLsb' 16 10).toNat = s.byte.val := by
  have hfield : (statusWord s).extractLsb' 16 10 = BitVec.ofNat 10 s.byte.val := by
    apply BitVec.eq_of_getLsbD_eq
    intro j hj
    rw [BitVec.getLsbD_extractLsb', statusWord_getLsbD_above_phase s (by omega) (by omega), Nat.add_sub_cancel_left,
      BitVec.getLsbD_of_ge (BitVec.ofNat 4 s.bit.val) _ (by omega)]
    simp [hj]
  rw [hfield]
  exact (BitVec.toNat_ofNat _ _).trans (Nat.mod_eq_of_lt (lt_trans s.byte.isLt (by decide)))

/-- RTS in CTRL (10_state.md R24). -/
theorem ctrlWord_rts (s : State) : (ctrlWord s).getLsbD 0 = s.rts := by
  rw [ctrlWord, flagAt_getLsbD]
  simp

theorem ctrlWord_reserved (s : State) {k : Nat} (h : 1 ≤ k) : (ctrlWord s).getLsbD k = false := by
  rw [ctrlWord, flagAt_getLsbD, decide_eq_false (by omega : k ≠ 0), Bool.and_false]

theorem phaseCode_eq_zero_iff (p : Phase) : phaseCode p = 0#2 ↔ p = .idle := by cases p <;> decide

/-- CKSUM holds the two checksum bytes (10_state.md R44). -/
theorem cksumWord_ck1 (s : State) : (cksumWord s).extractLsb' 0 8 = s.ck1 := by
  apply BitVec.eq_of_getLsbD_eq
  intro j hj
  have hword : j < 32 := by omega
  simp [cksumWord, hj, hword]

theorem cksumWord_ck2 (s : State) : (cksumWord s).extractLsb' 8 8 = s.ck2 := by
  apply BitVec.eq_of_getLsbD_eq
  intro j hj
  have hword : 8 + j < 32 := by omega
  simp [cksumWord, hj, hword]

theorem cksumWord_reserved (s : State) {k : Nat} (h : 16 ≤ k) : (cksumWord s).getLsbD k = false := by
  simp [cksumWord, BitVec.getLsbD_of_ge s.ck1 k (by omega), BitVec.getLsbD_of_ge s.ck2 (k - 8) (by omega)]

/-! What a host write to each register does (10_state.md R35 to R46). -/

/-- A write to a read-only register leaves the state as it is (10_state.md R23). -/
theorem hostWrite_readOnly {r : Reg} (hr : r = .status ∨ r = .frameCnt ∨ r = .format ∨ r = .cksum) (w : Word)
    (s : State) : hostWrite r w s = .next s := by
  rcases hr with rfl | rfl | rfl | rfl <;> rfl

/-- A register whose writes are locked while busy refuses them with Err(BUSY) (70_reset_and_hazards.md R254). -/
theorem hostWrite_busy {r : Reg} {s : State} (hb : busy s = true)
    (hr : r = .baudDiv ∨ r = .brkUs ∨ r = .mabUs ∨ ∃ i, r = .frame i) (w : Word) :
    hostWrite r w s = .next (raise .busy s) := by
  rcases hr with rfl | rfl | rfl | ⟨i, rfl⟩ <;> exact congrArg Host.Outcome.next (unlessBusy_busy hb)

theorem hostWrite_baudDiv_open {s : State} (hb : busy s = false) (ho : s.isOpen = true) (w : Word) :
    hostWrite .baudDiv w s = .next (raise .locked s) := by
  simp [hostWrite, writeBaudDiv, unlessBusy_idle hb, ho]

theorem hostWrite_baudDiv_closed {s : State} (hb : busy s = false) (ho : s.isOpen = false) (w : Word) :
    hostWrite .baudDiv w s = .next { s with baudDiv := lowHalf w } := by
  simp [hostWrite, writeBaudDiv, unlessBusy_idle hb, ho]

theorem hostWrite_brkUs_idle {s : State} (hb : busy s = false) (w : Word) :
    hostWrite .brkUs w s = .next { s with brkUs := atLeast brkFloor w } :=
  congrArg Host.Outcome.next (unlessBusy_idle hb)

theorem hostWrite_mabUs_idle {s : State} (hb : busy s = false) (w : Word) :
    hostWrite .mabUs w s = .next { s with mabUs := atLeast mabFloor w } :=
  congrArg Host.Outcome.next (unlessBusy_idle hb)

theorem hostWrite_frame_idle {s : State} (hb : busy s = false) (i : FrameIndex) (w : Word) :
    hostWrite (.frame i) w s = .next { s with fb := s.fb.write i (w.extractLsb' 0 8) } :=
  congrArg Host.Outcome.next (unlessBusy_idle hb)

/-- A write-any-read-legal field stores the larger of the data and its floor (10_state.md R38, R39). -/
theorem atLeast_toNat (floor : Half) (w : Word) :
    (atLeast floor w).toNat = max (w.extractLsb' 0 16).toNat floor.toNat := by
  unfold atLeast
  split
  · next h => exact (max_eq_right (Nat.le_of_lt (BitVec.lt_def.1 h))).symm
  · next h => exact (max_eq_left (Nat.le_of_not_lt fun hlt => h (BitVec.lt_def.2 hlt))).symm

/-- Only the low half of the data matters to a write-any-read-legal field. -/
theorem atLeast_congr {w v : Word} (h : w.extractLsb' 0 16 = v.extractLsb' 0 16) (floor : Half) :
    atLeast floor w = atLeast floor v := by
  have hlow : lowHalf w = lowHalf v := h
  rw [atLeast, atLeast, hlow]

/-! The meanings of OPEN and SEND, case by case (41_transport.md R162, R164). -/

theorem exec_openPort_busy {s : State} (hb : busy s = true) : exec .openPort s = .next (raise .busy s) :=
  congrArg Host.Outcome.next (unlessBusy_busy hb)

theorem exec_openPort_idle {s : State} (hb : busy s = false) : exec .openPort s = .next (openIdle s) :=
  congrArg Host.Outcome.next (unlessBusy_idle hb)

theorem exec_openPort_devOpen {s : State} (hb : busy s = false) (ho : s.isOpen = true) :
    exec .openPort s = .next (raise .devOpen s) := by
  simp [exec_openPort_idle hb, openIdle, ho]

theorem exec_openPort_baud {s : State} (hb : busy s = false) (ho : s.isOpen = false) (hd : s.baudDiv = 0#16) :
    exec .openPort s = .next (raise .baud s) := by
  simp [exec_openPort_idle hb, openIdle, ho, hd]

theorem exec_openPort_accepted {s : State} (hb : busy s = false) (ho : s.isOpen = false) (hd : s.baudDiv ≠ 0#16) :
    exec .openPort s = .next { s with isOpen := true, rts := false } := by
  simp [exec_openPort_idle hb, openIdle, ho, hd]

theorem exec_send_accepted {s : State} (hb : busy s = false) (ho : s.isOpen = true) :
    exec .send s = .next (loadSegment .brk (breakCycles s) 0 0 s) := by
  simp [exec, execSend, unlessBusy_idle hb, sendIdle, ho]

/-! The obligations of 10_state.md. -/

/-- Settles O36, field by field of STATUS. -/
theorem statusFields : Obligations.StatusFields := by
  unfold Obligations.StatusFields
  refine ⟨fun s => ?_, fun s w => hostWrite_readOnly (.inl rfl) w s, ?_⟩
  · simp only [readReg, statusWord_phase]
    refine ⟨statusWord_open s, ?_, statusWord_closing s, ?_, ?_, ?_, ?_, statusWord_bit s, statusWord_byte s,
      statusWord_reserved s (by decide), statusWord_reserved_field s (by omega), statusWord_reserved_field s (by omega)⟩
    · rw [statusWord_busy, ne_eq, phaseCode_eq_zero_iff, busy_eq_true]
    all_goals exact fun hp => congrArg phaseCode hp
  · rfl

/-- Settles O37, register by register. -/
theorem reservedBitsAndReadOnlyRegisters : Obligations.ReservedBitsAndReadOnlyRegisters := by
  unfold Obligations.ReservedBitsAndReadOnlyRegisters
  refine ⟨fun s k => ?_, fun s w v => ⟨fun h => ?_, fun h => ⟨?_, fun i => ?_⟩, fun h => ⟨?_, ?_, ?_⟩⟩, fun s w => ?_⟩
  · have above {n : Nat} (field : BitVec n) : n ≤ k → (field.setWidth 32).getLsbD k = false :=
      getLsbD_setWidth_of_field_le field 32
    exact ⟨ctrlWord_reserved s, above s.err, above s.baudDiv, above s.brkUs, above s.mabUs, above 0x088#9,
      cksumWord_reserved s, statusWord_reserved s, fun i => above (s.fb.read i)⟩
  · simp only [hostWrite, writeCtrl, h]
  · simp only [hostWrite, writeErr, h]
  · simp only [hostWrite, writeFrame, h]
  · simp only [hostWrite, writeBaudDiv, lowHalf, h]
  · simp only [hostWrite, writeBrkUs, atLeast_congr h]
  · simp only [hostWrite, writeMabUs, atLeast_congr h]
  · have ignored {r : Reg} (hr : r = .status ∨ r = .frameCnt ∨ r = .format ∨ r = .cksum) := hostWrite_readOnly hr w s
    exact ⟨ignored (by simp), ignored (by simp), ignored (by simp), ignored (by simp), rfl⟩

/-- Settles O40: the write by the busy and open tests, the bit duration by counting REM down from DIV. -/
theorem baudDivWrite : Obligations.BaudDivWrite := by
  unfold Obligations.BaudDivWrite
  refine ⟨afterReset_baudDiv_toNat 0 [], fun s w => ⟨?_, ?_, ?_, exec_openPort_baud, rfl, fun hp hd hr => ?_⟩⟩
  · exact fun hb => hostWrite_busy hb (.inl rfl) w
  · exact fun hb ho => hostWrite_baudDiv_open hb ho w
  · exact fun hb ho => hostWrite_baudDiv_closed hb ho w
  have hbusy : s.phase ≠ .idle := by simp [hp]
  refine ⟨fun c hc => ?_, ?_⟩
  · rw [tick_iterate c s hbusy (by omega)]
    exact ⟨hp, rfl, rfl⟩
  · have hpos : s.baudDiv.toNat ≠ 0 := fun h0 => hd (BitVec.eq_of_toNat_eq h0)
    obtain ⟨n, hn⟩ := Nat.exists_eq_succ_of_ne_zero hpos
    rw [hn, Function.iterate_succ_apply', tick_iterate n s hbusy (by omega)]
    exact tick_bit_ne hp (by simp only; omega)

/-- Settles O41: the writes by the busy test and `atLeast`, the two loads by SEND and the end of the break. -/
theorem breakAndMabWrites : Obligations.BreakAndMabWrites := by
  unfold Obligations.BreakAndMabWrites
  refine ⟨rfl, rfl, fun s w => ⟨fun hb => ?_, fun hb => ⟨?_, ?_⟩, rfl, rfl, fun hb ho => ?_, fun hp hr => ?_⟩⟩
  · exact ⟨hostWrite_busy hb (by simp) w, hostWrite_busy hb (by simp) w⟩
  · exact ⟨_, hostWrite_brkUs_idle hb w, rfl, atLeast_toNat brkFloor w⟩
  · exact ⟨_, hostWrite_mabUs_idle hb w, rfl, atLeast_toNat mabFloor w⟩
  · exact ⟨_, exec_send_accepted hb ho, rfl⟩
  · rw [tick_brk hp hr]
    exact ⟨rfl, rfl⟩

/-- Settles O43: the write by the busy test, its effect by the laws of the frame buffer. -/
theorem frameBufferWrite : Obligations.FrameBufferWrite := by
  unfold Obligations.FrameBufferWrite
  refine fun s i => ⟨fun w hb => hostWrite_busy hb (by simp) w, fun w hb => ?_, rfl, tick_fb s⟩
  exact ⟨_, hostWrite_frame_idle hb i w, rfl, Memory.read_write_same _ _ _, fun j hj => Memory.read_write_other _ _ hj⟩

/-- Settles O56: by the ways the tick and the access can change the OPEN bit. -/
theorem openBitChangesOnlyByOpenAndClose : Obligations.OpenBitChangesOnlyByOpenAndClose := by
  unfold Obligations.OpenBitChangesOnlyByOpenAndClose
  refine ⟨fun s ho => ?_, fun s t h => ⟨fun hs ht => ?_, fun hs ht => ?_⟩⟩
  · cases hb : busy s
    · exact ⟨.devOpen, .inr rfl, exec_openPort_devOpen hb ho⟩
    · exact ⟨.busy, .inl rfl, exec_openPort_busy hb⟩
  · rcases step_cases h with ⟨-, rfl⟩ | ⟨hr, ha⟩
    · cases ht
    have htick : (tick s).isOpen = false := by
      rcases tick_isOpen_cases s with hk | ⟨-, -, hk⟩
      · rw [hk, hs]
      · exact hk
    rcases access_isOpen_cases hr ha with hk | ⟨hw, hb, hd, -, hrts⟩ | ⟨-, hk⟩
    · simp [hk, htick] at ht
    · exact ⟨hw, by simpa using hb, by simpa using hd, hrts⟩
    · simp [hk] at ht
  · rcases step_cases h with ⟨hr, -⟩ | ⟨hr, ha⟩
    · exact .inr (.inr hr)
    rcases tick_isOpen_cases s with htick | ⟨hl, hc, -⟩
    · rcases access_isOpen_cases hr ha with hk | ⟨-, -, -, hk, -⟩ | ⟨hw, -⟩
      · simp [hk, htick, hs] at ht
      · simp [hk] at ht
      · exact .inl hw
    · exact .inr (.inl ⟨hl, hc⟩)

/-- Settles O57: no access touches FRAMECNT, and the tick counts the end of a frame. -/
theorem frameCountAdvancesOnlyAtFrameEnd : Obligations.FrameCountAdvancesOnlyAtFrameEnd := by
  unfold Obligations.FrameCountAdvancesOnlyAtFrameEnd
  refine ⟨fun s w => ⟨rfl, hostWrite_readOnly (by simp) w s⟩, fun s t h => ?_⟩
  rcases step_cases h with ⟨hr, rfl⟩ | ⟨hr, ha⟩
  · simp only [hr]
    exact ⟨fun _ => rfl, nofun, nofun⟩
  · have hcount : t.frameCnt = (tick s).frameCnt := by
      rw [(access_keeps_queue ha).2, tick_nextCycle_frameCnt]
    refine ⟨fun hr' => by simp [hr] at hr', fun _ hl => ?_, fun _ hl => ?_⟩
    · rw [hcount, tick_frameCnt_of_lastCycle hl, BitVec.toNat_add]
      rfl
    · rw [hcount, tick_frameCnt_of_not_lastCycle hl]

/-- Settles O58: by the ways an access can change the checksum bytes. -/
theorem checksumRegisterChangesOnlyByBuildProg : Obligations.ChecksumRegisterChangesOnlyByBuildProg := by
  unfold Obligations.ChecksumRegisterChangesOnlyByBuildProg
  refine ⟨fun s t h hne => ?_, fun s hw hb => ?_, fun s => ⟨cksumWord_ck1 s, cksumWord_ck2 s⟩,
    fun s w => hostWrite_readOnly (by simp) w s, rfl, rfl⟩
  · rcases step_cases h with ⟨hr, rfl⟩ | ⟨hr, ha⟩
    · exact .inl ⟨hr, rfl, rfl⟩
    · rcases access_checksum_cases hr ha with ⟨h1, h2⟩ | ⟨hw, hb, h1, h2⟩
      · simp [h1, h2] at hne
      · exact .inr ⟨hw, by simpa using hb, by simpa using h1, by simpa using h2⟩
  · have hstep : step s = .next (buildProgFrame (tick (nextCycle s))) :=
      (step_of_writesCommand hw).trans (execBuildProg_idle (by simpa using hb))
    exact ⟨_, hstep, by simp [buildProgFrame], by simp [buildProgFrame]⟩

/-- Settles O3: a reset edge is `State.afterReset`, whatever the state and the access. -/
theorem resetEdgeForcesResetValues : Obligations.ResetEdgeForcesResetValues := by
  unfold Obligations.ResetEdgeForcesResetValues
  refine ⟨afterReset_hasResetValues 0 [], fun s p rest hq hr => ?_⟩
  have hstep : step s = .next (resetEdge (nextCycle s)) := by
    simp [step, cycle, currentPorts, hq, hr]
  exact ⟨_, hstep, afterReset_hasResetValues _ _⟩

/-- Settles O38: the write stores RTS as it is defined to, and an accepted OPEN clears it. -/
theorem ctrlWriteSetsRts : Obligations.CtrlWriteSetsRts := by
  unfold Obligations.CtrlWriteSetsRts
  exact ⟨fun s w => rfl, fun s => ⟨rfl, ctrlWord_rts s⟩, rfl,
    fun s hb ho hd => ⟨_, exec_openPort_accepted hb ho hd, rfl⟩⟩

/-- Settles O39: the write is `clearErr` on the low byte of the data. -/
theorem errWriteOneToClear : Obligations.ErrWriteOneToClear := by
  unfold Obligations.ErrWriteOneToClear
  refine fun s => ⟨tick_err s, rfl, fun w => ⟨_, rfl, rfl, fun k hk => ?_⟩⟩
  exact (clearErr_getLsbD _ s hk).trans (by simp [hk])

/-- Settles O44: FORMAT is one constant word, CKSUM two bytes, and a write to CMD goes through the decoder. -/
theorem hardwiredAndChecksumReads : Obligations.HardwiredAndChecksumReads := by
  unfold Obligations.HardwiredAndChecksumReads
  refine fun s => ⟨rfl, rfl, ?_, ?_, ?_, ?_, fun w => hostWrite_readOnly (by simp) w s, fun w i hd => ?_,
    fun w why hd => ?_, cksumWord_ck1 s, cksumWord_ck2 s⟩
  · exact (by decide : formatWord.extractLsb' 0 4 = 8#4)
  · exact (by decide : formatWord.extractLsb' 4 2 = 0#2)
  · exact (by decide : formatWord.extractLsb' 6 2 = 2#2)
  · exact (by decide : formatWord.getLsbD 8 = false)
  · simp only [hostWrite, command, hd]
  · simp only [hostWrite, command, hd]
    rfl

end Sys2Proof.Machine

namespace Sys2Proof.Machine

/-! The address map and admission (20_memory.md R71, R72). -/

theorem lowReg_eq_none_iff {k : Nat} : lowReg k = none ↔ 12 ≤ k := by
  refine ⟨fun h => ?_, fun h => ?_⟩
  · by_contra hk
    have hlow : k < 12 := by omega
    interval_cases k <;> cases h
  · obtain ⟨n, rfl⟩ := Nat.exists_eq_add_of_le' h
    rfl

/-- Below the frame buffer's window an offset maps as its word does. -/
theorem wordAt_of_low_word {off : Half} {k : Nat} (h : off.toNat / 4 = k) (hk : k < 0x400) : wordAt off = lowReg k := by
  rw [wordAt, if_pos (by omega), h]

theorem wordAt_of_frame_word {off : Half} {i : FrameIndex} (h : off.toNat / 4 = 0x400 + i.val) :
    wordAt off = some (.frame i) := by
  have hi : (off.toNat - 0x1000) / 4 = i.val := by omega
  rw [wordAt, if_neg (by omega), dif_pos (by omega)]
  simp only [hi]

/-- An offset is unmapped exactly between the two windows and beyond the second. -/
theorem wordAt_eq_none_iff {off : Half} :
    wordAt off = none ↔ (0x0030 ≤ off.toNat ∧ off.toNat ≤ 0x0FFF) ∨ 0x1804 ≤ off.toNat := by
  unfold wordAt
  split
  · rw [lowReg_eq_none_iff]
    omega
  split
  · simp only [reduceCtorEq, false_iff]
    omega
  · simp only [true_iff]
    omega

/-- An access is admitted exactly when it is 4 bytes, 4-aligned and mapped. -/
theorem admitted_eq_none_iff {p : Ports} :
    admitted p = none ↔ ¬(p.size = 2#2 ∧ p.addr.toNat % 4 = 0 ∧
      (p.addr.toNat ≤ 0x002F ∨ (0x1000 ≤ p.addr.toNat ∧ p.addr.toNat ≤ 0x1803))) := by
  unfold admitted
  split
  · next h =>
    simp only [wordAt_eq_none_iff, h, true_and]
    omega
  · next h => exact iff_of_true rfl fun ⟨hsize, halign, _⟩ => h ⟨hsize, halign⟩

/-! The access of a cycle, case by case (20_memory.md R70, R72, R73). -/

theorem access_not_admitted {p : Ports} (hq : p.req = true) (ha : admitted p = none) (s : State) :
    access p s = .next (raise .bus s) := by
  simp only [access, hq, ha, if_true]

theorem access_admitted {p : Ports} {r : Reg} (hq : p.req = true) (ha : admitted p = some r) (s : State) :
    access p s = if p.we then hostWrite r p.wdata s else .next (hostRead r s) := by
  simp only [access, hq, ha, if_true, admittedAccess]

/-- A read leaves every register as it is. -/
theorem readReg_hostRead (r r' : Reg) (s : State) : readReg r (hostRead r' s) = readReg r s := by cases r <;> rfl

/-- No command touches `bus_rdata`. -/
theorem exec_busRdata {i : Instr} {s t : State} (h : exec i s = .next t) : t.busRdata = s.busRdata := by
  rcases exec_cases h with ⟨e, rfl⟩ | ⟨-, rfl⟩ | ⟨-, -, -, -, rfl⟩ | ⟨-, -, -, ⟨-, rfl⟩ | ⟨-, rfl⟩⟩ | ⟨-, -, rfl⟩ |
    ⟨g, -, -, -, -, rfl⟩ | ⟨-, -, -, rfl⟩ <;> rfl

/-- No write touches `bus_rdata`. -/
theorem hostWrite_busRdata {r : Reg} {w : Word} {s t : State} (h : hostWrite r w s = .next t) :
    t.busRdata = s.busRdata := by
  rcases hostWrite_cases h with ⟨e, rfl, -⟩ | ⟨-, rfl⟩ | ⟨-, rfl⟩ | ⟨-, rfl⟩ | ⟨-, i, -, hx⟩ | ⟨-, -, -, rfl⟩ |
    ⟨-, -, rfl⟩ | ⟨-, -, rfl⟩ | ⟨-, rfl⟩ | ⟨-, rfl⟩ | ⟨i, -, -, rfl⟩
  case inr.inr.inr.inr.inl => exact exec_busRdata hx
  all_goals rfl

/-- An access that is no read leaves `bus_rdata` as it is. -/
theorem access_busRdata_of_no_read {p : Ports} {s t : State} (hp : p.req = false ∨ p.we = true)
    (h : access p s = .next t) : t.busRdata = s.busRdata := by
  rcases access_cases h with ⟨-, rfl⟩ | ⟨-, -, rfl⟩ | ⟨hq, hw, -⟩ | ⟨-, -, r, -, hwrite⟩
  · rfl
  · rfl
  · simp [hq, hw] at hp
  · exact hostWrite_busRdata hwrite

/-- `bus_rdata` is 0 in the ticked state, before the access (20_memory.md R73). -/
theorem tick_nextCycle_busRdata (s : State) : (tick (nextCycle s)).busRdata = 0#32 := by simp

/-! A byte of the frame buffer in its word (20_memory.md R71). -/

theorem readReg_frame_byte (i : FrameIndex) (s : State) :
    (readReg (.frame i) s).extractLsb' 0 8 = s.fb.read i := by
  apply BitVec.eq_of_getLsbD_eq
  intro j hj
  have hword : j < 32 := by omega
  simp [readReg, hj, hword]

theorem readReg_frame_above_byte (i : FrameIndex) (s : State) :
    (readReg (.frame i) s).extractLsb' 8 24 = 0#24 := by
  apply BitVec.eq_of_getLsbD_eq
  intro j hj
  rw [BitVec.getLsbD_extractLsb', readReg, getLsbD_setWidth_of_field_le _ _ (by omega), Bool.and_false,
    BitVec.getLsbD_zero]

/-! The obligations of 20_memory.md. -/

/-- Settles O33: by the access of the cycle; an admitted read leaves the register it reads as it is. -/
theorem readDataComesInNextCycle : Obligations.ReadDataComesInNextCycle := by
  unfold Obligations.ReadDataComesInNextCycle
  intro s t h
  refine ⟨fun hr hq hw r ha => ?_, fun hr hq hw ha => ?_, fun hno => ?_⟩
  · rw [step_of_no_reset hr, access_admitted hq ha, hw] at h
    cases h
    exact congrArg (fun v => { tick (nextCycle s) with busRdata := v }) (readReg_hostRead r r _).symm
  · rw [step_of_no_reset hr, access_not_admitted hq ha] at h
    cases h
    exact ⟨rfl, tick_nextCycle_busRdata s⟩
  · rcases step_cases h with ⟨-, rfl⟩ | ⟨hr, haccess⟩
    · rfl
    · have hp : (currentPorts s).req = false ∨ (currentPorts s).we = true := by simpa [hr] using hno
      rw [access_busRdata_of_no_read hp haccess, tick_nextCycle_busRdata]

/-- Settles O34: admission is exactly the test of the statement, and each outcome has its own access. -/
theorem unadmittedAccessRaisesBusOnly : Obligations.UnadmittedAccessRaisesBusOnly := by
  unfold Obligations.UnadmittedAccessRaisesBusOnly
  intro s p hr hq
  refine ⟨fun hbad => ?_, fun hgood => ?_⟩
  · have hstep : step s = .next (raise .bus (tick (nextCycle s))) := by
      rw [step_of_no_reset hr, access_not_admitted hq (admitted_eq_none_iff.2 hbad)]
    exact ⟨_, hstep, tick_nextCycle_busRdata s, rfl⟩
  · have hsome : admitted p ≠ none := fun hnone => admitted_eq_none_iff.1 hnone hgood
    obtain ⟨r, ha⟩ := Option.ne_none_iff_exists'.1 hsome
    exact ⟨r, ha, by rw [step_of_no_reset hr, access_admitted hq ha]⟩

/-- Settles O35: each register by its word, each byte of the buffer by its word, and the rest by where the map ends. -/
theorem addressMap : Obligations.AddressMap := by
  unfold Obligations.AddressMap
  refine ⟨fun off => ?_, fun s i => ⟨readReg_frame_byte i s, readReg_frame_above_byte i s⟩⟩
  have low {k : Nat} (hk : k < 0x400) (h : off.toNat / 4 = k) : wordAt off = lowReg k := wordAt_of_low_word h hk
  exact ⟨low (by decide), low (by decide), low (by decide), low (by decide), low (by decide), low (by decide),
    low (by decide), low (by decide), low (by decide), low (by decide), low (by decide), low (by decide),
    fun i h => wordAt_of_frame_word (by omega), fun hlo hhi => wordAt_eq_none_iff.2 (.inl ⟨hlo, hhi⟩),
    fun hhi => wordAt_eq_none_iff.2 (.inr hhi)⟩

end Sys2Proof.Machine

namespace Sys2Proof.Machine

/-! Which command words are illegal, and what a write of each word to CMD does (30_encoding.md R101 to R103). -/

/-- The reserved bits of a command word are 7:4 and 31:9 (30_encoding.md R100). -/
theorem reservedMask_getLsbD_iff (k : Nat) :
    reservedMask.getLsbD k = true ↔ (4 ≤ k ∧ k ≤ 7) ∨ (9 ≤ k ∧ k ≤ 31) := by
  by_cases hk : k < 32
  · revert k
    decide
  · rw [BitVec.getLsbD_of_ge _ _ (by omega)]
    simp only [Bool.false_eq_true, false_iff]
    omega

theorem and_reservedMask_ne_zero_iff {w : Word} :
    w &&& reservedMask ≠ 0#32 ↔ ∃ k, ((4 ≤ k ∧ k ≤ 7) ∨ (9 ≤ k ∧ k ≤ 31)) ∧ w.getLsbD k = true := by
  simp only [← reservedMask_getLsbD_iff]
  refine ⟨fun hne => ?_, fun ⟨k, hk, hw⟩ h0 => ?_⟩
  · by_contra hclear
    refine hne (BitVec.eq_of_getLsbD_eq fun k _ => ?_)
    rw [BitVec.getLsbD_and, BitVec.getLsbD_zero, Bool.and_eq_false_iff, or_iff_not_imp_right, Bool.not_eq_false]
    exact fun hk => Bool.eq_false_iff.2 fun hw => hclear ⟨k, hk, hw⟩
  · exact Bool.false_ne_true ((reserved_bit_clear h0 hk).symm.trans hw)

theorem command_of_decode {w : Word} {i : Instr} (h : decode w = .command i) (s : State) : command w s = exec i s := by
  rw [command, h]

theorem command_of_illegal {w : Word} (h : ∃ why, decode w = .illegal why) (s : State) :
    command w s = .next (raise .badCmd s) := by
  obtain ⟨why, hwhy⟩ := h
  rw [command, hwhy]

theorem exists_command_of_not_illegal {w : Word} (h : ¬∃ why, decode w = .illegal why) : ∃ i, decode w = .command i :=
  match hd : decode w with
  | .command i => ⟨i, rfl⟩
  | .illegal why => absurd ⟨why, hd⟩ h

/-! The obligations of 30_encoding.md. -/

/-- Settles O7: the statement's three tests are the decoder's, so a word is illegal or the encoding of its command. -/
theorem illegalWordRaisesBadCmdOnly : Obligations.IllegalWordRaisesBadCmdOnly := by
  unfold Obligations.IllegalWordRaisesBadCmdOnly
  intro w s illegal
  have illegal_iff : (∃ why, decode w = .illegal why) ↔ illegal :=
    decode_illegal_iff.trans (or_congr and_reservedMask_ne_zero_iff Iff.rfl)
  refine ⟨fun hill => command_of_illegal (illegal_iff.2 hill) s, fun hleg => ?_, ?_⟩
  · obtain ⟨i, hi⟩ := exists_command_of_not_illegal (illegal_iff.not.2 hleg)
    exact ⟨i, eq_encode_of_decode hi, command_of_decode hi s⟩
  · exact command_of_decode (by decide : decode 0x00000000#32 = .command .nop) s

/-- Settles O6: the map's seven words decode as it says, and an opcode 6 to 15 is one of the decoder's three tests. -/
theorem commandMapWords : Obligations.CommandMapWords := by
  unfold Obligations.CommandMapWords
  have illegal_of_opcode {w : Word} (hop : 6 ≤ (opField w).toNat) : ∃ why, decode w = .illegal why :=
    decode_illegal_iff.2 (.inr (.inl hop))
  exact ⟨by decide, by decide, by decide, by decide, by decide, by decide, by decide,
    fun _ s hop => command_of_illegal (illegal_of_opcode hop) s⟩

end Sys2Proof.Machine

namespace Sys2Proof.Machine

/-! Packet-builder arithmetic and frames (40_packet_builder.md R120 to R123, R130, R140). -/

/-- The ranges of R121: a register is an unsigned 32-bit number. -/
theorem serialDelta_range (serial : Word) : -3080000 ≤ serialDelta serial ∧ serialDelta serial ≤ 4291887295 := by
  have := serial.isLt
  unfold serialDelta
  omega

theorem addrDelta_range (addr : Word) : -1 ≤ addrDelta addr ∧ addrDelta addr ≤ 4294967294 := by
  have := addr.isLt
  unfold addrDelta
  omega

theorem toNat_checksum1 (serial addr : Word) :
    ((checksum1 serial addr).toNat : Int) = check1 (serialDelta serial) (addrDelta addr) :=
  toNat_ofInt_byte (mod256_range _).1 (mod256_range _).2

theorem toNat_checksum2 (serial addr : Word) :
    ((checksum2 serial addr).toNat : Int) = check2 (serialDelta serial) (addrDelta addr) :=
  toNat_ofInt_byte (mod256_range _).1 (mod256_range _).2

/-- The floor of the exact quotient, as R120 writes it. -/
theorem mod256_eq_sub_floor (x : Int) : mod256 x = x - 256 * ⌊(x : ℚ) / 256⌋ := by
  have hfloor : ⌊(x : ℚ) / 256⌋ = x / 256 := Rat.floor_intCast_div_natCast x 256
  rw [hfloor, mod256]

/-- Assignments to a frame under construction, the first one first. -/
def setBytes (cells : List Host.Cell) (f : Nat → Byte) : Nat → Byte := cells.foldl (fun g c => setByte c.1 c.2 g) f

theorem setBytes_of_notMem {cells : List Host.Cell} {i : Nat} (h : i ∉ cells.map Prod.fst) (f : Nat → Byte) :
    setBytes cells f i = f i := by
  induction cells generalizing f with
  | nil => rfl
  | cons c rest ih =>
    obtain ⟨hne, hrest⟩ := List.ne_and_not_mem_of_not_mem_cons h
    exact (ih hrest _).trans (setByte_other hne _ _)

/-- Where no index is assigned twice, each assigned index holds its byte. -/
theorem setBytes_of_mem {cells : List Host.Cell} {k : Nat} {v : Byte} (hnd : (cells.map Prod.fst).Nodup)
    (h : (k, v) ∈ cells) (f : Nat → Byte) : setBytes cells f k = v := by
  induction cells generalizing f with
  | nil => cases h
  | cons c rest ih =>
    obtain ⟨hfresh, hrest⟩ := List.nodup_cons.1 hnd
    rcases List.mem_cons.1 h with rfl | hmem
    · exact (setBytes_of_notMem hfresh _).trans (setByte_same _ _ _)
    · exact ih hrest hmem _

/-- The seven field bytes of the programming packet, in the order of R130. -/
def progFields (p : Params) (serial addr : Word) : List Host.Cell :=
  [(p.offSerial, serial.extractLsb' 16 8), (p.offSerial + 1, serial.extractLsb' 8 8),
    (p.offSerial + 2, serial.extractLsb' 0 8), (p.offAddr, addr.extractLsb' 8 8), (p.offAddr + 1, addr.extractLsb' 0 8),
    (p.offCk1, checksum1 serial addr), (p.offCk2, checksum2 serial addr)]

theorem progPacketOf_eq_setBytes (p : Params) (template : Nat → Byte) (serial addr : Word) :
    progPacketOf p template serial addr =
      setBytes (progFields p serial addr) fun i => if i < p.progLen then template i else 0x00#8 := rfl

theorem map_fst_progFields (p : Params) (serial addr : Word) :
    (progFields p serial addr).map Prod.fst = p.fieldBytes := rfl

/-- The fields of a legal layout are disjoint (00_scope.md R2), so each keeps the byte assigned to it. -/
theorem progPacket_field {serial addr : Word} {k : Nat} {v : Byte} (h : (k, v) ∈ progFields Config.params serial addr) :
    progPacket serial addr k = v := by
  obtain ⟨-, -, -, -, -, -, -, hnd⟩ := Config.params_legal
  rw [progPacket, progPacketOf_eq_setBytes]
  exact setBytes_of_mem (by rwa [map_fst_progFields]) h _

theorem progPacket_outside_fields {serial addr : Word} {i : Nat} (h : i ∉ Config.params.fieldBytes) :
    progPacket serial addr i = if i < Config.params.progLen then Config.progTemplate i else 0x00#8 := by
  rw [progPacket, progPacketOf_eq_setBytes]
  exact setBytes_of_notMem (by rwa [map_fst_progFields]) _

/-- The frame buffer after an accepted BUILD_PROG is the programming packet. -/
theorem buildProgFrame_fb_read (s : State) (i : FrameIndex) :
    (buildProgFrame s).fb.read i = progPacket s.serial s.addr i.val := by
  simp [buildProgFrame]

theorem indicator_green (a : Nat) (g : Bool) : indicator a g (a + 1) = if g then 0xFF#8 else 0x00#8 := by
  cases g <;> simp [indicator, setByte]

/-- The flag G decides the byte at A + 1 only. -/
theorem indicator_of_ne_green {a i : Nat} (h : i ≠ a + 1) (g : Bool) :
    indicator a g i = setByte (a + 2) 0x00#8 (setByte a 0x00#8 redFill) i := by
  cases g <;> simp [indicator, setByte, h]

/-! The words of BUILD_PROG and BUILD_IND (30_encoding.md R101, R102). -/

theorem opcodeOf_eq_three_iff {i : Instr} : opcodeOf i = 3#4 ↔ i = .buildProg := by
  cases i <;> simp [opcodeOf]

theorem opcodeOf_eq_four_iff {i : Instr} : opcodeOf i = 4#4 ↔ ∃ g, i = .buildInd g := by
  cases i <;> simp [opcodeOf]

/-- A word that is the encoding of no command with its opcode raises Err(BADCMD) (30_encoding.md R103). -/
theorem command_of_ne_encode {w : Word} (h : ∀ i, opcodeOf i = opField w → w ≠ encode i) (s : State) :
    command w s = .next (raise .badCmd s) := by
  refine command_of_illegal (by_contra fun hlegal => ?_) s
  obtain ⟨i, hi⟩ := exists_command_of_not_illegal hlegal
  obtain ⟨-, hop, -⟩ := fields_of_decode hi
  exact h i hop.symm (eq_encode_of_decode hi)

/-! The obligations of 40_packet_builder.md. -/

/-- Settles O11: the two bytes are in range, so each is the value of its formula, whose residues are those of Int. -/
theorem checksumBytesFollowFormula : Obligations.ChecksumBytesFollowFormula := by
  unfold Obligations.ChecksumBytesFollowFormula
  intro s hb
  have hck1 := toNat_checksum1 s.serial s.addr
  have hck2 := toNat_checksum2 s.serial s.addr
  simp only [check1, check2, mod256_eq_emod] at hck1 hck2
  exact ⟨buildProgFrame s, execBuildProg_idle hb, (serialDelta_range _).1, (serialDelta_range _).2,
    (addrDelta_range _).1, (addrDelta_range _).2, hck1, hck2⟩

/-- Settles O14: the buffer is the packet, and in a legal layout no field overwrites another. -/
theorem programmingPacketBytes : Obligations.ProgrammingPacketBytes := by
  unfold Obligations.ProgrammingPacketBytes
  intro s hb
  refine ⟨buildProgFrame s, execBuildProg_idle hb, fun i => ?_⟩
  have field {k : Nat} {v : Byte} (h : (k, v) ∈ progFields Config.params s.serial s.addr) (hi : i.val = k) :
      (buildProgFrame s).fb.read i = v := by
    rw [buildProgFrame_fb_read, hi, progPacket_field h]
  refine ⟨field ?_, field ?_, field ?_, field ?_, field ?_, field ?_, field ?_,
    fun hi => (buildProgFrame_fb_read s i).trans (progPacket_outside_fields hi)⟩
  all_goals simp [progFields]

/-- Settles O16: G decides byte A + 1 alone, and the other two assignments clear A and A + 2. -/
theorem indicatorFrameBytes : Obligations.IndicatorFrameBytes := by
  unfold Obligations.IndicatorFrameBytes
  intro s g hb h1 h509
  refine ⟨_, execBuildInd_accepted g hb h1 h509, fun i => ?_⟩
  simp only [putFrame_fb, Memory.read_ofBytes]
  refine ⟨fun h => ?_, fun h => ?_, fun h => ?_, fun hA hA1 hA2 => ?_⟩
  · rw [h, indicator_of_ne_green (by omega), setByte_other (by omega), setByte_same]
  · rw [h, indicator_green]
  · rw [h, indicator_of_ne_green (by omega), setByte_same]
  · rw [indicator_of_ne_green hA1, setByte_other hA2, setByte_other hA, redFill]

/-- Settles O10: `mod256` is the remainder of Int division, whose quotient is the floor. -/
theorem mod256IsTheResidue : Obligations.Mod256IsTheResidue := by
  unfold Obligations.Mod256IsTheResidue
  refine ⟨fun x r => ?_, mod256_eq_sub_floor, by decide, by decide⟩
  rw [mod256_eq_emod]
  omega

/-- Settles O13: by the busy test; a word with the opcode of BUILD_PROG can be no other command. -/
theorem buildProgCommand : Obligations.BuildProgCommand := by
  unfold Obligations.BuildProgCommand
  refine ⟨by decide, fun s => ⟨execBuildProg_busy, execBuildProg_idle, fun w hop hw => ?_⟩⟩
  refine command_of_ne_encode (fun i hi => ?_) s
  obtain rfl := opcodeOf_eq_three_iff.1 (hi.trans hop)
  exact hw

/-- Settles O15: by the busy and range tests; a word with the opcode of BUILD_IND can be only its two encodings. -/
theorem buildIndCommand : Obligations.BuildIndCommand := by
  unfold Obligations.BuildIndCommand
  refine ⟨by decide, by decide, fun s => ⟨execBuildInd_busy, execBuildInd_range, execBuildInd_accepted,
    fun w hop hoff hgreen => ?_⟩⟩
  refine command_of_ne_encode (fun i hi => ?_) s
  obtain ⟨g, rfl⟩ := opcodeOf_eq_four_iff.1 (hi.trans hop)
  cases g with
  | false => exact hoff
  | true => exact hgreen

end Sys2Proof.Machine

namespace Sys2Proof.Machine

/-! The meanings of CLOSE and SEND, case by case, and the word of NOP (41_transport.md R161, R163, R164). -/

theorem opcodeOf_eq_zero_iff {i : Instr} : opcodeOf i = 0#4 ↔ i = .nop := by
  cases i <;> simp [opcodeOf]

theorem exec_closePort_notOpen {s : State} (h : s.isOpen = false ∨ s.closing = true) :
    exec .closePort s = .next (raise .notOpen s) :=
  congrArg Host.Outcome.next (if_pos h)

/-- On a port that is open and not closing, CLOSE turns on the busy test alone. -/
theorem exec_closePort_open {s : State} (ho : s.isOpen = true) (hc : s.closing = false) :
    exec .closePort s = .next (if busy s then { s with closing := true } else { s with isOpen := false }) := by
  have hopen : ¬(s.isOpen = false ∨ s.closing = true) := by simp [ho, hc]
  exact congrArg Host.Outcome.next (if_neg hopen)

theorem exec_closePort_deferred {s : State} (ho : s.isOpen = true) (hc : s.closing = false) (hb : busy s = true) :
    exec .closePort s = .next { s with closing := true } := by
  rw [exec_closePort_open ho hc, if_pos hb]

theorem exec_closePort_idle {s : State} (ho : s.isOpen = true) (hc : s.closing = false) (hb : busy s = false) :
    exec .closePort s = .next { s with isOpen := false } := by
  rw [exec_closePort_open ho hc, hb, if_neg Bool.false_ne_true]

theorem exec_send_busy {s : State} (hb : busy s = true) : exec .send s = .next (raise .busy s) :=
  congrArg Host.Outcome.next (unlessBusy_busy hb)

theorem exec_send_notOpen {s : State} (hb : busy s = false) (ho : s.isOpen = false) :
    exec .send s = .next (raise .notOpen s) := by
  simp [exec, execSend, unlessBusy_idle hb, sendIdle, ho]

/-- STATUS.BUSY reads 1 exactly where the serializer is busy (10_state.md R32). -/
theorem readReg_status_busy (s : State) : (readReg .status s).getLsbD 1 = busy s := statusWord_busy s

/-- The line is at space in the whole break (42_serializer.md R185). -/
theorem line_of_brk {s : State} (h : s.phase = .brk) : line s = false := by
  rw [line, h]

/-! The obligations of 41_transport.md. -/

/-- Settles O19: NOP is the identity, and a word with its opcode can be no other command. -/
theorem nopDoesNothing : Obligations.NopDoesNothing := by
  unfold Obligations.NopDoesNothing
  refine ⟨by decide, fun s => ⟨rfl, fun w hop hw => command_of_ne_encode (fun i hi => ?_) s⟩⟩
  obtain rfl := opcodeOf_eq_zero_iff.1 (hi.trans hop)
  exact hw

/-- Settles O20: by the busy, open and divisor tests, in this order. -/
theorem openCommand : Obligations.OpenCommand := by
  unfold Obligations.OpenCommand
  exact ⟨by decide, fun _ => ⟨exec_openPort_busy, exec_openPort_devOpen, exec_openPort_baud, exec_openPort_accepted⟩⟩

/-- Settles O21: by the open and closing test, then the busy test, which only defers the close. -/
theorem closeCommand : Obligations.CloseCommand := by
  unfold Obligations.CloseCommand
  exact ⟨by decide, fun _ => ⟨exec_closePort_notOpen, exec_closePort_deferred, exec_closePort_idle⟩⟩

/-- Settles O22: by the busy and open tests; an accepted SEND leaves the serializer in the break, which is busy and has
the line at space. -/
theorem sendCommand : Obligations.SendCommand := by
  unfold Obligations.SendCommand
  refine ⟨by decide, fun s => ⟨exec_send_busy, exec_send_notOpen, fun hb ho => ?_⟩⟩
  refine ⟨_, exec_send_accepted hb ho, rfl, ?_, line_of_brk (loadSegment_phase ..)⟩
  rw [readReg_status_busy, busy_loadSegment]
  rfl

end Sys2Proof.Machine

namespace Sys2Proof.Machine

/-! What an access can do to the fields that the tick writes (42_serializer.md R180). -/

/-- Only an accepted SEND changes PHASE, REM, BIT and BYTE (41_transport.md R164). -/
theorem exec_sequencing_cases {i : Instr} {s t : State} (h : exec i s = .next t) :
    (t.phase = s.phase ∧ t.rem = s.rem ∧ t.bit = s.bit ∧ t.byte = s.byte) ∨
    (i = .send ∧ busy s = false ∧ s.isOpen = true) := by
  rcases exec_cases h with ⟨e, rfl⟩ | ⟨-, rfl⟩ | ⟨-, -, -, -, rfl⟩ | ⟨-, -, -, ⟨-, rfl⟩ | ⟨-, rfl⟩⟩ |
    ⟨-, -, rfl⟩ | ⟨g, -, -, -, -, rfl⟩ | ⟨hi, hb, ho, -⟩
  case inr.inr.inr.inr.inr.inr => exact .inr ⟨hi, hb, ho⟩
  all_goals exact .inl ⟨rfl, rfl, rfl, rfl⟩

/-- Only OPEN and CLOSE change the OPEN and CLOSING bits (41_transport.md R162, R163). -/
theorem exec_openClosing_cases {i : Instr} {s t : State} (h : exec i s = .next t) :
    (t.isOpen = s.isOpen ∧ t.closing = s.closing) ∨ i = .openPort ∨ i = .closePort := by
  rcases exec_cases h with ⟨e, rfl⟩ | ⟨-, rfl⟩ | ⟨hi, -⟩ | ⟨hi, -⟩ | ⟨-, -, rfl⟩ | ⟨g, -, -, -, -, rfl⟩ | ⟨-, -, -, rfl⟩
  case inr.inr.inl => exact .inr (.inl hi)
  case inr.inr.inr.inl => exact .inr (.inr hi)
  all_goals exact .inl ⟨rfl, rfl⟩

/-- An access and the sequencing fields: kept, or those of an accepted SEND. -/
theorem access_sequencing_cases {p : Ports} {s t : State} (hr : p.rst = false) (h : access p s = .next t) :
    (t.phase = s.phase ∧ t.rem = s.rem ∧ t.bit = s.bit ∧ t.byte = s.byte) ∨
    (WritesCommand p (encode .send) ∧ busy s = false ∧ s.isOpen = true) := by
  rcases access_command_or_same hr h with ⟨i, hp, hx⟩ | hsame
  · rcases exec_sequencing_cases hx with hk | ⟨rfl, hsend⟩
    · exact .inl hk
    · exact .inr ⟨hp, hsend⟩
  · exact .inl ⟨hsame.phase, hsame.rem, hsame.bit, hsame.byte⟩

/-- An access and the bits OPEN and CLOSING: kept, or there is an OPEN or a CLOSE. -/
theorem access_openClosing_cases {p : Ports} {s t : State} (hr : p.rst = false) (h : access p s = .next t) :
    (t.isOpen = s.isOpen ∧ t.closing = s.closing) ∨
    WritesCommand p (encode .openPort) ∨ WritesCommand p (encode .closePort) := by
  rcases access_command_or_same hr h with ⟨i, hp, hx⟩ | hsame
  · rcases exec_openClosing_cases hx with hk | rfl | rfl
    · exact .inl hk
    · exact .inr (.inl hp)
    · exact .inr (.inr hp)
  · exact .inl ⟨hsame.isOpen, hsame.closing⟩

/-- A step whose cycle has a reset leads to the reset state, with a new draw of the frame buffer (70_reset_and_hazards.md R250). -/
theorem step_of_reset {s : State} (h : (currentPorts s).rst = true) :
    step s = .next (State.afterReset s.draws s.hostQueue.tail) := by
  rw [step, cycle, if_pos h]
  rfl

/-- Only an accepted SEND makes an idle serializer busy (42_serializer.md R181). -/
theorem step_starts_frame {s t : State} (hb : busy (tick s) = false) (h : step s = .next t) (ht : busy t = true) :
    WritesCommand (currentPorts s) (encode .send) ∧ (tick s).isOpen = true := by
  rcases step_cases h with ⟨-, rfl⟩ | ⟨hr, ha⟩
  · exact absurd rfl (busy_eq_true.1 ht)
  rcases access_sequencing_cases hr ha with ⟨hphase, -⟩ | ⟨hw, -, ho⟩
  · rw [tick_nextCycle_phase, busy_eq_false.1 hb] at hphase
    exact absurd hphase (busy_eq_true.1 ht)
  · exact ⟨hw, by simpa using ho⟩

/-! What the ticks of one whole segment or bit lead to (42_serializer.md R182 to R186). -/

/-- As many ticks as REM counts are the last of them, from the state in which one cycle is left. -/
theorem tick_iterate_rem {s : State} (hp : s.phase ≠ .idle) (hr : 1 ≤ s.rem) :
    tick^[s.rem] s = tick { s with rem := 1 } := by
  obtain ⟨n, hn⟩ : ∃ n, s.rem = n + 1 := ⟨s.rem - 1, by omega⟩
  rw [hn, Function.iterate_succ_apply', tick_iterate n s hp (by omega), hn, Nat.add_sub_cancel_left]

theorem tick_iterate_brk {s : State} (hp : s.phase = .brk) (hr : 1 ≤ s.rem) :
    tick^[s.rem] s = { s with phase := .mab, rem := mabCycles s } := by
  rw [tick_iterate_rem (by simp [hp]) hr]
  exact tick_brk (s := { s with rem := 1 }) hp le_rfl

theorem tick_iterate_mab {s : State} (hp : s.phase = .mab) (hr : 1 ≤ s.rem) :
    tick^[s.rem] s = { s with phase := .data, rem := bitCycles s, bit := 0, byte := 0 } := by
  rw [tick_iterate_rem (by simp [hp]) hr]
  exact tick_mab (s := { s with rem := 1 }) hp le_rfl

theorem tick_iterate_bit {s : State} (hp : s.phase = .data) (hr : 1 ≤ s.rem) (hb : s.bit.val < 10) :
    tick^[s.rem] s = { s with rem := bitCycles s, bit := ⟨s.bit.val + 1, by omega⟩ } := by
  rw [tick_iterate_rem (by simp [hp]) hr]
  exact tick_bit (s := { s with rem := 1 }) hp le_rfl hb

theorem tick_iterate_slot {s : State} (hp : s.phase = .data) (hr : 1 ≤ s.rem) (hb : s.bit.val = 10)
    (hy : s.byte.val < 512) :
    tick^[s.rem] s = { s with rem := bitCycles s, bit := 0, byte := ⟨s.byte.val + 1, by omega⟩ } := by
  rw [tick_iterate_rem (by simp [hp]) hr]
  exact tick_slot (s := { s with rem := 1 }) hp le_rfl hb hy

theorem tick_iterate_end {s : State} (hp : s.phase = .data) (hr : 1 ≤ s.rem) (hb : s.bit.val = 10)
    (hy : s.byte.val = 512) :
    tick^[s.rem] s = { s with phase := .idle, rem := 0, bit := 0, byte := 0, frameCnt := s.frameCnt + 1#32,
                              closing := false, isOpen := s.isOpen && !s.closing } := by
  rw [tick_iterate_rem (by simp [hp]) hr]
  exact tick_end (s := { s with rem := 1 }) ⟨hp, le_rfl, hb, hy⟩

/-- The first cycle of bit position `q` of the frame, counted from the first data cycle: 11 positions in a slot, the slots
in index order (42_serializer.md R184). -/
theorem tick_iterate_position {s : State} (hp : s.phase = .data) (hy : s.byte = 0) (hb : s.bit = 0)
    (hr : s.rem = bitCycles s) (hpos : 1 ≤ s.rem) (q : Nat) :
    ∀ (k : FrameIndex) (p : Fin 11), 11 * k.val + p.val = q →
      tick^[q * s.rem] s = { s with byte := k, bit := p } := by
  induction q with
  | zero =>
    intro k p hq
    have hk : k = s.byte := hy ▸ Fin.ext (show k.val = 0 by omega)
    have hp0 : p = s.bit := hb ▸ Fin.ext (show p.val = 0 by omega)
    rw [Nat.zero_mul, hk, hp0]
    rfl
  | succ q ih =>
    intro k p hq
    rw [Nat.succ_mul, Nat.add_comm, Function.iterate_add_apply]
    by_cases hp0 : p = 0
    · have hp0v : p.val = 0 := congrArg Fin.val hp0
      have hk : k.val - 1 + 1 = k.val := by omega
      rw [ih ⟨k.val - 1, by omega⟩ 10 (show 11 * (k.val - 1) + 10 = q by omega)]
      refine (tick_iterate_slot (s := { s with byte := ⟨k.val - 1, by omega⟩, bit := 10 }) hp hpos rfl
        (show k.val - 1 < 512 by omega)).trans ?_
      simp [hr, hp0, hk, bitCycles]
    · have hp1 : p.val - 1 + 1 = p.val := Nat.sub_one_add_one fun h => hp0 (Fin.ext h)
      rw [ih k ⟨p.val - 1, by omega⟩ (show 11 * k.val + (p.val - 1) = q by omega)]
      refine (tick_iterate_bit (s := { s with byte := k, bit := ⟨p.val - 1, by omega⟩ }) hp hpos
        (show p.val - 1 < 10 by omega)).trans ?_
      simp [hr, hp1, bitCycles]

/-- A break of `s.rem` cycles, then the mark-after-break, then the first slot (42_serializer.md R182, R183). -/
theorem tick_iterate_break_mab {s : State} (hp : s.phase = .brk) (hr : 1 ≤ s.rem) (hm : 1 ≤ mabCycles s) :
    (∀ j, (j < s.rem → (tick^[j] s).phase = .brk) ∧
      (s.rem ≤ j → j < s.rem + mabCycles s → (tick^[j] s).phase = .mab)) ∧
    tick^[s.rem + mabCycles s] s = { s with phase := .data, byte := 0, bit := 0, rem := bitCycles s } := by
  have hmab := tick_iterate_brk hp hr
  refine ⟨fun j => ⟨fun hj => ?_, fun hle hlt => ?_⟩, ?_⟩
  · rw [tick_iterate j s (by simp [hp]) hj]
    exact hp
  · obtain ⟨n, rfl⟩ := Nat.exists_eq_add_of_le hle
    rw [Nat.add_comm, Function.iterate_add_apply, hmab, tick_iterate n _ (by simp) (Nat.lt_of_add_lt_add_left hlt)]
  · rw [Nat.add_comm, Function.iterate_add_apply, hmab]
    exact tick_iterate_mab (s := { s with phase := .mab, rem := mabCycles s }) rfl hm

/-! The obligations of 42_serializer.md. -/

/-- Settles O9: by the definition of a cycle, the frame of the tick, and the ways an access can change the sequencing
fields and the bits OPEN and CLOSING. -/
theorem cycleIsTickThenAccess : Obligations.CycleIsTickThenAccess := by
  unfold Obligations.CycleIsTickThenAccess
  refine fun s => ⟨step_of_reset, step_of_no_reset, fun p hq => by simp [access, hq], tick_frame s,
    fun p t hr h => ⟨(access_keeps_queue h).2, fun hsend => ?_, fun hopen hclose => ?_⟩, fun p r hq hw ha => ?_⟩
  · exact (access_sequencing_cases hr h).resolve_right fun ⟨hw, _⟩ => hsend hw
  · exact (access_openClosing_cases hr h).resolve_right fun hw => hw.elim hopen hclose
  · rw [access_admitted hq ha, hw]
    rfl

/-- Settles O24: by the ticks of a whole segment; the floors of BRK_US and MAB_US make both loads positive. -/
theorem breakAndMabTimers : Obligations.BreakAndMabTimers := by
  unfold Obligations.BreakAndMabTimers
  refine ⟨fun s => ⟨tick_idle, fun hp => tick_count (by simp [hp]), tick_brk, fun hp => tick_count (by simp [hp]),
    tick_mab⟩, fun s t => step_starts_frame, fun s hinv hb ho => ⟨_, exec_send_accepted hb ho, ?_⟩⟩
  have hbrk : 1 ≤ breakCycles s := Nat.mul_pos (by have := hinv.brk_floor; omega) Config.usDiv_pos
  have hmab : 1 ≤ mabCycles s := Nat.mul_pos (by have := hinv.mab_floor; omega) Config.usDiv_pos
  exact tick_iterate_break_mab (s := loadSegment .brk (breakCycles s) 0 0 s) rfl hbrk hmab

/-- Settles O25: each bit position of the frame takes as many ticks as its REM counts, 5643 positions in all. -/
theorem baudTimerAndFrameEnd : Obligations.BaudTimerAndFrameEnd := by
  unfold Obligations.BaudTimerAndFrameEnd
  refine ⟨fun s hp => ⟨tick_count (by simp [hp]), fun hr hb => ?_, fun hr hb hy => ?_,
    fun hr hb hy => tick_end ⟨hp, hr, hb, hy⟩⟩, fun s hp hy hb hr hd => ?_⟩
  · rw [tick_bit hp hr hb]
    exact ⟨rfl, rfl⟩
  · rw [tick_slot hp hr hb hy]
    exact ⟨rfl, rfl⟩
  have hpos : 1 ≤ s.rem := by
    rw [hr]
    exact Nat.one_le_iff_ne_zero.2 fun h0 => hd (BitVec.eq_of_toNat_eq h0)
  have hposition := tick_iterate_position hp hy hb hr hpos
  rw [← hr]
  refine ⟨fun k p c hc => ?_, ?_⟩
  · rw [Nat.add_comm, Function.iterate_add_apply, hposition _ k p rfl]
    exact tick_iterate c { s with byte := k, bit := p } (by simp [hp]) hc
  · have hlast : 5643 * s.rem = s.rem + 5642 * s.rem := by omega
    rw [hlast, Function.iterate_add_apply, hposition 5642 512 10 rfl]
    exact tick_iterate_end (s := { s with byte := 512, bit := 10 }) hp hpos rfl rfl

end Sys2Proof.Machine

namespace Sys2Proof.Machine

/-! What a command, a write and an access can do to ERR (60_exceptions.md R220, R221, R234). -/

/-- Raising an error clears no bit. -/
theorem raise_keeps_set {s : State} {k : Nat} (h : s.err.getLsbD k = true) (e : ErrBit) :
    (raise e s).err.getLsbD k = true := by
  rw [raise_err, BitVec.getLsbD_or, h, Bool.true_or]

/-- The bit that an error turns on is the bit of its code. -/
theorem errCode_eq_of_raise_sets {e : ErrBit} {s : State} {k : Nat} (hs : s.err.getLsbD k = false)
    (ht : (raise e s).err.getLsbD k = true) : errCode e = k := by
  by_contra hne
  rw [raise_other (Ne.symm hne), hs] at ht
  cases ht

/-- Clearing ERR sets no bit. -/
theorem clearErr_keeps_clear {s : State} {k : Nat} (h : s.err.getLsbD k = false) (m : BitVec 8) :
    (clearErr m s).err.getLsbD k = false := by
  rw [clearErr_err, BitVec.getLsbD_and, h, Bool.false_and]

/-- The bit that a write of `w` to ERR turns off is a 1 of `w` (10_state.md R35). -/
theorem getLsbD_of_clearErr_clears {w : Word} {s : State} {k : Nat} (hs : s.err.getLsbD k = true)
    (ht : (clearErr (w.extractLsb' 0 8) s).err.getLsbD k = false) : w.getLsbD k = true := by
  have hk : k < 8 := BitVec.lt_of_getLsbD hs
  rw [clearErr_getLsbD _ s hk, hs] at ht
  simpa [hk] using ht

/-- A command raises one error and does nothing else, or leaves ERR as it is. -/
theorem exec_err_cases {i : Instr} {s t : State} (h : exec i s = .next t) :
    (∃ e, t = raise e s) ∨ t.err = s.err := by
  rcases exec_cases h with hraise | ⟨-, rfl⟩ | ⟨-, -, -, -, rfl⟩ | ⟨-, -, -, ⟨-, rfl⟩ | ⟨-, rfl⟩⟩ | ⟨-, -, rfl⟩ |
    ⟨g, -, -, -, -, rfl⟩ | ⟨-, -, -, rfl⟩
  case inl => exact .inl hraise
  all_goals exact .inr rfl

/-- An admitted write raises one error and does nothing else, is a write to ERR, or leaves ERR as it is. -/
theorem hostWrite_err_cases {r : Reg} {w : Word} {s t : State} (h : hostWrite r w s = .next t) :
    (∃ e, t = raise e s) ∨ (r = .err ∧ t = clearErr (w.extractLsb' 0 8) s) ∨ t.err = s.err := by
  rcases hostWrite_cases h with ⟨e, ht, -⟩ | ⟨-, rfl⟩ | ⟨-, rfl⟩ | hclear | ⟨-, i, -, hx⟩ | ⟨-, -, -, rfl⟩ |
    ⟨-, -, rfl⟩ | ⟨-, -, rfl⟩ | ⟨-, rfl⟩ | ⟨-, rfl⟩ | ⟨i, -, -, rfl⟩
  case inl => exact .inl ⟨e, ht⟩
  case inr.inr.inr.inl => exact .inr (.inl hclear)
  case inr.inr.inr.inr.inl => exact (exec_err_cases hx).imp_right .inr
  all_goals exact .inr (.inr rfl)

/-- An access raises one error and does nothing else, is an admitted write to ERR, or leaves ERR as it is. -/
theorem access_err_cases {p : Ports} {s t : State} (h : access p s = .next t) :
    (p.req = true ∧ ∃ e, t = raise e s) ∨
    (p.req = true ∧ p.we = true ∧ admitted p = some .err ∧ t = clearErr (p.wdata.extractLsb' 0 8) s) ∨
    t.err = s.err := by
  rcases access_cases h with ⟨-, rfl⟩ | ⟨hq, -, ht⟩ | ⟨-, -, r, -, rfl⟩ | ⟨hq, hw, r, ha, hwrite⟩
  · exact .inr (.inr rfl)
  · exact .inl ⟨hq, .bus, ht⟩
  · exact .inr (.inr rfl)
  · rcases hostWrite_err_cases hwrite with hraise | ⟨rfl, hclear⟩ | hsame
    · exact .inl ⟨hq, hraise⟩
    · exact .inr (.inl ⟨hq, hw, ha, hclear⟩)
    · exact .inr (.inr hsame)

/-- An access that turns an ERR bit on raises the error of that bit and does nothing else (60_exceptions.md R221). -/
theorem raises_of_access_sets {p : Ports} {s t : State} {k : Nat} (h : access p s = .next t)
    (hs : s.err.getLsbD k = false) (ht : t.err.getLsbD k = true) :
    p.req = true ∧ ∃ e, errCode e = k ∧ t = raise e s := by
  rcases access_err_cases h with ⟨hq, e, rfl⟩ | ⟨-, -, -, rfl⟩ | hsame
  · exact ⟨hq, e, errCode_eq_of_raise_sets hs ht, rfl⟩
  · cases (clearErr_keeps_clear hs _).symm.trans ht
  · rw [hsame, hs] at ht
    cases ht

/-- An access that turns an ERR bit off is a write of 1 to that bit (60_exceptions.md R234). -/
theorem writes_one_of_access_clears {p : Ports} {s t : State} {k : Nat} (h : access p s = .next t)
    (hs : s.err.getLsbD k = true) (ht : t.err.getLsbD k = false) :
    p.req = true ∧ p.we = true ∧ admitted p = some .err ∧ p.wdata.getLsbD k = true := by
  rcases access_err_cases h with ⟨-, e, rfl⟩ | ⟨hq, hw, herr, rfl⟩ | hsame
  · cases (raise_keeps_set hs e).symm.trans ht
  · exact ⟨hq, hw, herr, getLsbD_of_clearErr_clears hs ht⟩
  · rw [hsame, hs] at ht
    cases ht

/-- A CLOSE never raises BUSY (60_exceptions.md R225). -/
theorem exec_closePort_keeps_busyBit {s t : State} (h : exec .closePort s = .next t) :
    t.err.getLsbD 3 = s.err.getLsbD 3 := by
  by_cases hno : s.isOpen = false ∨ s.closing = true
  · rw [exec_closePort_notOpen hno] at h
    cases h
    exact raise_other (by decide : 3 ≠ errCode .notOpen)
  · obtain ⟨ho, hc⟩ : s.isOpen = true ∧ s.closing = false := by simpa using hno
    rw [exec_closePort_open ho hc] at h
    cases h
    split <;> rfl

/-! The obligations of 60_exceptions.md. -/

/-- Settles O48: the tick keeps ERR, and of what an access can do to ERR only raising an error sets a bit, that of its
code. -/
theorem refusedAccessHasNoOtherEffect : Obligations.RefusedAccessHasNoOtherEffect := by
  unfold Obligations.RefusedAccessHasNoOtherEffect
  refine ⟨tick_err, fun e s => ⟨rfl, raise_sets e s, fun j => raise_other⟩, fun s t k h hs ht => ?_⟩
  rcases step_cases h with ⟨-, rfl⟩ | ⟨hr, ha⟩
  · simp [State.afterReset] at ht
  obtain ⟨hq, e, rfl, rfl⟩ := raises_of_access_sets ha (by simpa using hs) ht
  exact ⟨hq, hr, e, rfl, rfl, fun j hj => by rw [raise_other hj, tick_err, nextCycle_err]⟩

/-- Settles O49: of what a step can do to ERR only a reset and a write to ERR clear a bit, and the write only where its
data is 1. -/
theorem errorBitsAreSticky : Obligations.ErrorBitsAreSticky := by
  unfold Obligations.ErrorBitsAreSticky
  refine ⟨raise_raise, fun e f s _ => ⟨raise_sets e _, raise_keeps_set (raise_sets f s) e⟩,
    fun i e s => exec_next i _, fun s t k h hs ht => ?_⟩
  rcases step_cases h with ⟨hr, -⟩ | ⟨-, ha⟩
  · exact .inl hr
  · exact .inr (writes_one_of_access_clears ha (by simpa using hs) ht)

/-- Settles O50: the refusals by the busy test of each command and register; of the others CLOSE raises at most NOTOPEN,
a write to ERR only clears bits, and the rest leave ERR as it is. -/
theorem busyRefusals : Obligations.BusyRefusals := by
  unfold Obligations.BusyRefusals
  intro s hb
  refine ⟨exec_openPort_busy hb, execBuildProg_busy hb, fun g => execBuildInd_busy g hb, exec_send_busy hb,
    fun w => ⟨?_, ?_, ?_, fun i => ?_⟩, rfl, fun t => exec_closePort_keeps_busyBit, fun r => hostRead_err r s,
    fun w t h => ?_, fun w t h ht => ?_⟩
  iterate 4 exact hostWrite_busy hb (by simp) w
  · rcases h with h | h | h | h | h | h | h <;> (cases h; rfl)
  · cases h
    cases hs : s.err.getLsbD 3
    · cases (clearErr_keeps_clear hs _).symm.trans ht
    · rfl

end Sys2Proof.Machine

namespace Sys2Proof.Machine

/-! What a deferred close leaves as it is: the ticks before the frame's last one, and every access that opens no idle port
(70_reset_and_hazards.md R258). -/

/-- Only the last tick of a frame changes OPEN, CLOSING or BUSY (42_serializer.md R186). -/
theorem tick_port_of_not_lastCycle {s : State} (hl : ¬LastCycle s) :
    (tick s).isOpen = s.isOpen ∧ (tick s).closing = s.closing ∧ busy (tick s) = busy s := by
  rcases tick_cases s with ⟨-, h⟩ | ⟨-, -, h⟩ | ⟨hp, -, h⟩ | ⟨hp, -, h⟩ | ⟨_, -, -, h⟩ | ⟨_, -, -, -, h⟩ | ⟨hlast, -⟩
  case inr.inr.inl | inr.inr.inr.inl => simp [h, busy, hp]
  case inr.inr.inr.inr.inr.inr => exact absurd hlast hl
  all_goals
    rw [h]
    exact ⟨rfl, rfl, rfl⟩

/-- A frame's last tick with a close pending closes the port and ends the frame (42_serializer.md R186). -/
theorem tick_port_of_lastCycle_closing {s : State} (hl : LastCycle s) (hc : s.closing = true) :
    (tick s).isOpen = false ∧ (tick s).closing = false ∧ busy (tick s) = false := by
  rw [tick_end hl]
  exact ⟨by simp [hc], rfl, rfl⟩

/-- A command keeps OPEN, CLOSING and BUSY where the tests of OPEN, CLOSE and SEND refuse each of the three
(41_transport.md R162 to R164). -/
theorem exec_keeps_port {i : Instr} {s t : State} (hopen : i = .openPort → busy s = true)
    (hclose : s.isOpen = false ∨ s.closing = true) (hsend : busy s = true ∨ s.isOpen = false)
    (h : exec i s = .next t) : t.isOpen = s.isOpen ∧ t.closing = s.closing ∧ busy t = busy s := by
  rcases exec_openClosing_cases h with ⟨ho, hc⟩ | rfl | rfl
  · rcases exec_sequencing_cases h with ⟨hp, -⟩ | ⟨-, hb, hop⟩
    · exact ⟨ho, hc, by rw [busy, hp, busy]⟩
    · simp [hb, hop] at hsend
  · cases (exec_openPort_busy (hopen rfl)).symm.trans h
    exact ⟨rfl, rfl, rfl⟩
  · cases (exec_closePort_notOpen hclose).symm.trans h
    exact ⟨rfl, rfl, rfl⟩

/-- An access keeps OPEN, CLOSING and BUSY where the tests of OPEN, CLOSE and SEND refuse each of the three. -/
theorem access_keeps_port {p : Ports} {s t : State} (hr : p.rst = false)
    (hopen : WritesCommand p (encode .openPort) → busy s = true)
    (hclose : s.isOpen = false ∨ s.closing = true) (hsend : busy s = true ∨ s.isOpen = false)
    (h : access p s = .next t) : t.isOpen = s.isOpen ∧ t.closing = s.closing ∧ busy t = busy s := by
  rcases access_command_or_same hr h with ⟨i, hp, hx⟩ | hsame
  · exact exec_keeps_port (fun hi => hopen (hi ▸ hp)) hclose hsend hx
  · exact ⟨hsame.isOpen, hsame.closing, by rw [busy, hsame.phase, busy]⟩

/-! The obligations of 70_reset_and_hazards.md. -/

/-- Settles O30: while closing OPEN, CLOSE and SEND are all refused, so only the frame's last tick closes the port; of
the three only OPEN can then be accepted in that cycle. -/
theorem deferredCloseWaitsForFrameEnd : Obligations.DeferredCloseWaitsForFrameEnd := by
  unfold Obligations.DeferredCloseWaitsForFrameEnd
  refine ⟨fun s hb ho hc => exec_closePort_deferred ho hc hb,
    fun s hb hc => ⟨exec_openPort_busy hb, exec_send_busy hb, exec_closePort_notOpen (.inr hc)⟩,
    fun s t hinv hc hr h => ?_⟩
  rw [step_of_no_reset hr] at h
  refine ⟨fun hl => ?_, fun hl => ?_⟩
  · have hb : busy s = true := hinv.closing_busy hc
    obtain ⟨hopen, hclosing, hbusy⟩ : (tick (nextCycle s)).isOpen = true ∧ (tick (nextCycle s)).closing = true ∧
        busy (tick (nextCycle s)) = true := by
      simpa [hinv.busy_open hb, hc, hb] using tick_port_of_not_lastCycle hl
    obtain ⟨hopen', hclosing', hbusy'⟩ := access_keeps_port hr (fun _ => hbusy) (.inr hclosing) (.inl hbusy) h
    exact ⟨hclosing'.trans hclosing, hopen'.trans hopen, hbusy'.trans hbusy⟩
  · obtain ⟨hopen, hclosing, hbusy⟩ := tick_port_of_lastCycle_closing hl hc
    refine ⟨hopen, hclosing, fun hno => ?_⟩
    have hshut : (tick (nextCycle s)).isOpen = false := by rw [tick_nextCycle_isOpen, hopen]
    obtain ⟨hopen', hclosing', hbusy'⟩ := access_keeps_port hr (fun hw => absurd hw hno) (.inl hshut) (.inr hshut) h
    exact ⟨by simpa [hopen] using hopen', by simpa [hclosing] using hclosing', by simpa [hbusy] using hbusy'⟩

end Sys2Proof.Machine

namespace Sys2Proof.Machine

/-! Decode and encode agree (30_encoding.md section 1). -/

/-- The word of a command decodes to it: the round trip of each constructor. -/
theorem decode_encode (i : Instr) : decode (encode i) = .command i := by
  have of_statement {i : Instr} (h : Laws.EncodeRoundTrip.Statement i) : decode (encode i) = .command i := by
    obtain ⟨-, -, -, -, hd⟩ := h
    exact hd
  cases i with
  | nop => exact of_statement Laws.EncodeRoundTrip.nop
  | openPort => exact of_statement Laws.EncodeRoundTrip.openPort
  | closePort => exact of_statement Laws.EncodeRoundTrip.closePort
  | buildProg => exact of_statement Laws.EncodeRoundTrip.buildProg
  | buildInd green => exact of_statement (Laws.EncodeRoundTrip.buildInd green)
  | send => exact of_statement Laws.EncodeRoundTrip.send

/-- Settles O5: a word that decodes is made of the command's fields, and each command's own word decodes to it. -/
theorem decodeIsInverseOfEncode : Obligations.DecodeIsInverseOfEncode := by
  unfold Obligations.DecodeIsInverseOfEncode
  refine fun w i => ⟨eq_encode_of_decode, ?_⟩
  rintro rfl
  exact decode_encode i

end Sys2Proof.Machine

namespace Sys2Proof.Machine

/-! The invariants (a) to (f) of 10_state.md R33: what the reset state, the tick and each access keep of them. -/

/-- The invariants speak only of the port bits, the sequencing fields and the timing registers. -/
theorem StatusInv.congr {s t : State} (h : StatusInv s) (hopen : t.isOpen = s.isOpen) (hclosing : t.closing = s.closing)
    (hphase : t.phase = s.phase) (hbit : t.bit = s.bit) (hbyte : t.byte = s.byte) (hdiv : t.baudDiv = s.baudDiv)
    (hbrk : t.brkUs = s.brkUs) (hmab : t.mabUs = s.mabUs) : StatusInv t where
  busy_open := by simpa only [busy, hphase, hopen] using h.busy_open
  closing_busy := by simpa only [busy, hphase, hclosing] using h.closing_busy
  open_divisor := by simpa only [hopen, hdiv] using h.open_divisor
  brk_floor := hbrk ▸ h.brk_floor
  mab_floor := hmab ▸ h.mab_floor
  bit_le := hbit ▸ h.bit_le
  byte_le := hbyte ▸ h.byte_le
  outside_data := by simpa only [hphase, hbit, hbyte] using h.outside_data

theorem statusInv_afterReset (n : Nat) (queue : List Ports) : StatusInv (State.afterReset n queue) where
  busy_open := nofun
  closing_busy := nofun
  open_divisor := nofun
  brk_floor := (by decide : 176 ≤ (200#16).toNat)
  mab_floor := (by decide : 8 ≤ (20#16).toNat)
  bit_le := Fin.is_le _
  byte_le := Fin.is_le _
  outside_data _ := ⟨rfl, rfl⟩

theorem statusInv_nextCycle {s : State} (h : StatusInv s) : StatusInv (nextCycle s) :=
  h.congr rfl rfl rfl rfl rfl rfl rfl rfl

theorem statusInv_raise {s : State} (h : StatusInv s) (e : ErrBit) : StatusInv (raise e s) :=
  h.congr rfl rfl rfl rfl rfl rfl rfl rfl

/-- A segment that starts on an open port keeps the invariants, if outside DATA it has BIT and BYTE at 0. -/
theorem StatusInv.loadSegment {s : State} (h : StatusInv s) (hopen : s.isOpen = true) {p : Phase} {bit : Fin 11}
    {byte : FrameIndex} (hp : p ≠ .idle) (hout : p ≠ .data → bit = 0 ∧ byte = 0) (n : Nat) :
    StatusInv (loadSegment p n bit byte s) where
  busy_open _ := hopen
  closing_busy _ := by simp [hp]
  open_divisor := h.open_divisor
  brk_floor := h.brk_floor
  mab_floor := h.mab_floor
  bit_le := Fin.is_le _
  byte_le := Fin.is_le _
  outside_data := hout

/-- Within DATA the position is free. -/
theorem StatusInv.withinData {s : State} (h : StatusInv s) (hp : s.phase = .data) (n : Nat) (bit : Fin 11)
    (byte : FrameIndex) : StatusInv { s with rem := n, bit := bit, byte := byte } :=
  { h with bit_le := Fin.is_le _, byte_le := Fin.is_le _, outside_data := fun hne => absurd hp hne }

/-- The end of a frame leaves the serializer idle and no close pending. -/
theorem StatusInv.endOfFrame {s : State} (h : StatusInv s) (n : Word) :
    StatusInv { s with phase := .idle, rem := 0, bit := 0, byte := 0, frameCnt := n, closing := false,
                       isOpen := s.isOpen && !s.closing } where
  busy_open := nofun
  closing_busy := nofun
  open_divisor ho := h.open_divisor (Bool.and_elim_left ho)
  brk_floor := h.brk_floor
  mab_floor := h.mab_floor
  bit_le := Fin.is_le _
  byte_le := Fin.is_le _
  outside_data _ := ⟨rfl, rfl⟩

theorem statusInv_tick {s : State} (h : StatusInv s) : StatusInv (tick s) := by
  have open_of {p : Phase} (hp : s.phase = p) (hne : p ≠ .idle) : s.isOpen = true :=
    h.busy_open (busy_eq_true.2 (hp ▸ hne))
  rcases tick_cases s with ⟨-, ht⟩ | ⟨-, -, ht⟩ | ⟨hp, -, ht⟩ | ⟨hp, -, ht⟩ | ⟨_, hp, -, ht⟩ | ⟨_, hp, -, -, ht⟩ | ⟨-, ht⟩
  · rwa [ht]
  · rw [ht]
    exact h.congr rfl rfl rfl rfl rfl rfl rfl rfl
  · rw [ht]
    exact h.loadSegment (open_of hp (by decide)) (p := .mab) (by decide) (fun _ => h.outside_data (by simp [hp])) _
  · rw [ht]
    exact h.loadSegment (open_of hp (by decide)) (p := .data) (by decide) (fun hd => absurd rfl hd) _
  · rw [ht]
    exact h.withinData hp _ _ _
  · rw [ht]
    exact h.withinData hp _ _ _
  · rw [ht]
    exact h.endOfFrame _

/-- An accepted OPEN finds a divisor that is not 0 (41_transport.md R162). -/
theorem StatusInv.openPort {s : State} (h : StatusInv s) (hd : s.baudDiv ≠ 0#16) :
    StatusInv { s with isOpen := true, rts := false } :=
  { h with busy_open := fun _ => rfl, open_divisor := fun _ => hd }

/-- A CLOSE while busy only marks the close as pending (41_transport.md R163). -/
theorem StatusInv.deferClose {s : State} (h : StatusInv s) (hb : busy s = true) :
    StatusInv { s with closing := true } :=
  { h with closing_busy := fun _ => hb }

/-- A CLOSE while idle closes the port at once. -/
theorem StatusInv.closePort {s : State} (h : StatusInv s) (hb : busy s = false) :
    StatusInv { s with isOpen := false } :=
  { h with busy_open := fun hb' => absurd hb' (by simpa [busy] using hb), open_divisor := nofun }

theorem statusInv_exec {i : Instr} {s t : State} (h : StatusInv s) (hx : exec i s = .next t) : StatusInv t := by
  rcases exec_cases hx with ⟨e, rfl⟩ | ⟨-, rfl⟩ | ⟨-, -, -, hd, rfl⟩ | ⟨-, -, -, ⟨hb, rfl⟩ | ⟨hb, rfl⟩⟩ |
    ⟨-, -, rfl⟩ | ⟨g, -, -, -, -, rfl⟩ | ⟨-, -, ho, rfl⟩
  · exact statusInv_raise h e
  · exact h
  · exact h.openPort hd
  · exact h.deferClose hb
  · exact h.closePort hb
  · exact h.congr rfl rfl rfl rfl rfl rfl rfl rfl
  · exact h.congr rfl rfl rfl rfl rfl rfl rfl rfl
  · exact h.loadSegment ho (by decide) (fun _ => ⟨rfl, rfl⟩) _

/-- A field that stores at least its floor holds at least its floor (10_state.md R38, R39). -/
theorem floor_le_atLeast (floor : Half) (w : Word) : floor.toNat ≤ (atLeast floor w).toNat := by
  rw [atLeast_toNat]
  exact le_max_right _ _

theorem statusInv_hostWrite {r : Reg} {w : Word} {s t : State} (h : StatusInv s) (hw : hostWrite r w s = .next t) :
    StatusInv t := by
  rcases hostWrite_cases hw with ⟨e, rfl, -⟩ | ⟨-, rfl⟩ | ⟨-, rfl⟩ | ⟨-, rfl⟩ | ⟨-, i, -, hx⟩ | ⟨-, -, ho, rfl⟩ |
    ⟨-, -, rfl⟩ | ⟨-, -, rfl⟩ | ⟨-, rfl⟩ | ⟨-, rfl⟩ | ⟨i, -, -, rfl⟩
  case inr.inr.inl => exact h
  case inr.inr.inr.inr.inl => exact statusInv_exec h hx
  case inr.inr.inr.inr.inr.inl => exact { h with open_divisor := fun ho' => absurd ho' (by simp [ho]) }
  case inr.inr.inr.inr.inr.inr.inl => exact { h with brk_floor := floor_le_atLeast brkFloor w }
  case inr.inr.inr.inr.inr.inr.inr.inl => exact { h with mab_floor := floor_le_atLeast mabFloor w }
  all_goals exact h.congr rfl rfl rfl rfl rfl rfl rfl rfl

theorem statusInv_access {p : Ports} {s t : State} (h : StatusInv s) (ha : access p s = .next t) : StatusInv t := by
  rcases access_cases ha with ⟨-, rfl⟩ | ⟨-, -, rfl⟩ | ⟨-, -, r, -, rfl⟩ | ⟨-, -, r, -, hw⟩
  · exact h
  · exact statusInv_raise h _
  · exact h.congr rfl rfl rfl rfl rfl rfl rfl rfl
  · exact statusInv_hostWrite h hw

theorem statusInv_step {s t : State} (h : StatusInv s) (hs : step s = .next t) : StatusInv t := by
  rcases step_cases hs with ⟨-, rfl⟩ | ⟨-, ha⟩
  · exact statusInv_afterReset _ _
  · exact statusInv_access (statusInv_tick (statusInv_nextCycle h)) ha

/-- What every step keeps, every run keeps. -/
theorem Runs.invariant {P : State → Prop} (hstep : ∀ s t, P s → step s = .next t → P t) {k : Nat} :
    ∀ {s t : State}, P s → Runs k s t → P t := by
  induction k with
  | zero =>
    rintro s t hs rfl
    exact hs
  | succ k ih =>
    rintro s t hs ⟨u, hu, hk⟩
    exact ih (hstep s u hs hu) hk

/-- Settles O53: reset establishes the invariants, the tick and every access keep them, and so every step and run does. -/
theorem stepKeepsStatusInvariants : Obligations.StepKeepsStatusInvariants := by
  unfold Obligations.StepKeepsStatusInvariants
  exact ⟨statusInv_afterReset 0 [], fun _ _ => statusInv_step, fun _ _ _ => Runs.invariant fun _ _ => statusInv_step⟩

end Sys2Proof.Machine

namespace Sys2Proof.Machine

/-! What the serializer reads of the registers while it sends a frame, and that no access changes it (20_memory.md
section 6). -/

/-- `s` and `t` agree on what determines the rest of a frame beside the sequencing fields: the buffer and the three timing
registers. -/
structure SameFrameInputs (s t : State) : Prop where
  fb : t.fb = s.fb
  baudDiv : t.baudDiv = s.baudDiv
  brkUs : t.brkUs = s.brkUs
  mabUs : t.mabUs = s.mabUs

/-- Of the commands only the builders write a frame input, and they are refused while busy. -/
theorem exec_keeps_frameInputs {i : Instr} {s t : State} (hb : busy s = true) (h : exec i s = .next t) :
    SameFrameInputs s t := by
  rcases exec_cases h with ⟨e, rfl⟩ | ⟨-, rfl⟩ | ⟨-, -, -, -, rfl⟩ | ⟨-, -, -, ⟨-, rfl⟩ | ⟨-, rfl⟩⟩ |
    ⟨-, hidle, -⟩ | ⟨g, -, hidle, -⟩ | ⟨-, -, -, rfl⟩
  case inr.inr.inr.inr.inl => simp [hb] at hidle
  case inr.inr.inr.inr.inr.inl => simp [hb] at hidle
  all_goals exact ⟨rfl, rfl, rfl, rfl⟩

theorem hostWrite_keeps_frameInputs {r : Reg} {w : Word} {s t : State} (hb : busy s = true)
    (h : hostWrite r w s = .next t) : SameFrameInputs s t := by
  rcases hostWrite_cases h with ⟨e, rfl, -⟩ | ⟨-, rfl⟩ | ⟨-, rfl⟩ | ⟨-, rfl⟩ | ⟨-, i, -, hx⟩ | ⟨-, hidle, -⟩ |
    ⟨-, hidle, -⟩ | ⟨-, hidle, -⟩ | ⟨-, rfl⟩ | ⟨-, rfl⟩ | ⟨i, -, hidle, -⟩
  case inr.inr.inr.inr.inl => exact exec_keeps_frameInputs hb hx
  case inr.inr.inr.inr.inr.inl | inr.inr.inr.inr.inr.inr.inl | inr.inr.inr.inr.inr.inr.inr.inl |
    inr.inr.inr.inr.inr.inr.inr.inr.inr.inr => simp [hb] at hidle
  all_goals exact ⟨rfl, rfl, rfl, rfl⟩

theorem access_keeps_frameInputs {p : Ports} {s t : State} (hb : busy s = true) (h : access p s = .next t) :
    SameFrameInputs s t := by
  rcases access_cases h with ⟨-, rfl⟩ | ⟨-, -, rfl⟩ | ⟨-, -, r, -, rfl⟩ | ⟨-, -, r, -, hw⟩
  case inr.inr.inr => exact hostWrite_keeps_frameInputs hb hw
  all_goals exact ⟨rfl, rfl, rfl, rfl⟩

/-- Settles O59: the tick keeps the four, and while busy each access that could write one is refused. -/
theorem frameInputsAreFixedWhileBusy : Obligations.FrameInputsAreFixedWhileBusy := by
  unfold Obligations.FrameInputsAreFixedWhileBusy
  intro s t h hr hb
  rw [step_of_no_reset hr] at h
  obtain ⟨hfb, hdiv, hbrk, hmab⟩ := access_keeps_frameInputs (by simpa using hb) h
  simp [hfb, hdiv, hbrk, hmab]

/-! The timer's range (10_state.md R41, 42_serializer.md R191). -/

theorem StatusInv.breakCycles_pos {s : State} (h : StatusInv s) : 1 ≤ breakCycles s :=
  Nat.mul_pos (Nat.lt_of_lt_of_le (by decide) h.brk_floor) Config.usDiv_pos

theorem StatusInv.mabCycles_pos {s : State} (h : StatusInv s) : 1 ≤ mabCycles s :=
  Nat.mul_pos (Nat.lt_of_lt_of_le (by decide) h.mab_floor) Config.usDiv_pos

theorem StatusInv.bitCycles_pos {s : State} (h : StatusInv s) (ho : s.isOpen = true) : 1 ≤ bitCycles s :=
  Nat.one_le_iff_ne_zero.2 fun h0 => h.open_divisor ho (BitVec.eq_of_toNat_eq h0)

/-- The timer's range where no frame is sent. -/
theorem timerInv_of_idle {s : State} (hp : s.phase = .idle) (hr : s.rem = 0) : TimerInv s where
  idle_zero _ := hr
  busy_pos hb := absurd hp (busy_eq_true.1 hb)
  le_reload := by simp [hr]

/-- The timer's range while a frame is sent. -/
theorem timerInv_of_busy {s : State} (hp : s.phase ≠ .idle) (hpos : 1 ≤ s.rem) (hle : s.rem ≤ reload s) :
    TimerInv s where
  idle_zero hb := absurd (busy_eq_false.1 hb) hp
  busy_pos _ := hpos
  le_reload := hle

theorem reload_congr {s t : State} (hp : t.phase = s.phase) (h : SameFrameInputs s t) : reload t = reload s := by
  simp only [reload, breakCycles, mabCycles, bitCycles, hp, h.brkUs, h.mabUs, h.baudDiv]

/-- The tick keeps the timer in its range: it counts down, or starts a timer at its reload value. -/
theorem timerInv_tick {s : State} (hs : StatusInv s) (h : TimerInv s) : TimerInv (tick s) := by
  have bit_pos (hp : s.phase = .data) : 1 ≤ bitCycles s :=
    hs.bitCycles_pos (hs.busy_open (busy_eq_true.2 (by simp [hp])))
  rcases tick_cases s with ⟨-, ht⟩ | ⟨hp, hr, ht⟩ | ⟨-, -, ht⟩ | ⟨hp, -, ht⟩ | ⟨_, hp, -, ht⟩ | ⟨_, hp, -, -, ht⟩ | ⟨-, ht⟩
  · rwa [ht]
  · rw [ht]
    exact timerInv_of_busy hp (Nat.le_sub_one_of_lt hr) ((Nat.sub_le _ 1).trans h.le_reload)
  · rw [ht]
    exact timerInv_of_busy (by simp) hs.mabCycles_pos le_rfl
  · rw [ht]
    exact timerInv_of_busy (by simp) (hs.bitCycles_pos (hs.busy_open (busy_eq_true.2 (by simp [hp])))) le_rfl
  · rw [ht]
    exact timerInv_of_busy (by simp [hp]) (bit_pos hp) (by simp [reload, hp, bitCycles])
  · rw [ht]
    exact timerInv_of_busy (by simp [hp]) (bit_pos hp) (by simp [reload, hp, bitCycles])
  · rw [ht]
    exact timerInv_of_idle rfl rfl

/-- An access that writes SEND to an idle open port starts the break (41_transport.md R164). -/
theorem access_send_accepted {p : Ports} {s : State} (hw : WritesCommand p (encode .send)) (hb : busy s = false)
    (ho : s.isOpen = true) : access p s = .next (loadSegment .brk (breakCycles s) 0 0 s) := by
  rw [access_of_writesCommand hw, command_of_decode (decode_encode .send), exec_send_accepted hb ho]

/-- An access keeps the timer in its range: only an accepted SEND writes it, with the reload value of the break. -/
theorem timerInv_access {p : Ports} {s t : State} (hr : p.rst = false) (hs : StatusInv s) (h : TimerInv s)
    (ha : access p s = .next t) : TimerInv t := by
  rcases access_sequencing_cases hr ha with ⟨hphase, hrem, -⟩ | ⟨hw, hb, ho⟩
  · cases hb : busy s
    · exact timerInv_of_idle (hphase.trans (busy_eq_false.1 hb)) (hrem.trans (h.idle_zero hb))
    · have hreload : reload t = reload s := reload_congr hphase (access_keeps_frameInputs hb ha)
      exact timerInv_of_busy (hphase ▸ busy_eq_true.1 hb) (hrem ▸ h.busy_pos hb) (hrem ▸ hreload ▸ h.le_reload)
  · cases (access_send_accepted hw hb ho).symm.trans ha
    exact timerInv_of_busy (by simp) hs.breakCycles_pos le_rfl

theorem timerInv_nextCycle {s : State} (h : TimerInv s) : TimerInv (nextCycle s) :=
  ⟨h.idle_zero, h.busy_pos, h.le_reload⟩

theorem timerInv_afterReset (n : Nat) (queue : List Ports) : TimerInv (State.afterReset n queue) :=
  timerInv_of_idle rfl rfl

/-- Settles O54: the reset edge clears the timer, and the tick and the access keep its range. -/
theorem stepKeepsTimerInRange : Obligations.StepKeepsTimerInRange := by
  unfold Obligations.StepKeepsTimerInRange
  intro s t hs h hstep
  rcases step_cases hstep with ⟨-, rfl⟩ | ⟨hr, ha⟩
  · exact timerInv_afterReset _ _
  · have hs' := statusInv_nextCycle hs
    exact timerInv_access hr (statusInv_tick hs') (timerInv_tick hs' (timerInv_nextCycle h)) ha

/-! The frame buffer's canonical form (the model's own, log 5). -/

theorem exec_keeps_wf {i : Instr} {s t : State} (hwf : s.fb.wf = true) (h : exec i s = .next t) : t.fb.wf = true := by
  rcases exec_cases h with ⟨e, rfl⟩ | ⟨-, rfl⟩ | ⟨-, -, -, -, rfl⟩ | ⟨-, -, -, ⟨-, rfl⟩ | ⟨-, rfl⟩⟩ |
    ⟨-, -, rfl⟩ | ⟨g, -, -, -, -, rfl⟩ | ⟨-, -, -, rfl⟩
  case inr.inr.inr.inr.inl => exact Memory.wf_ofBytes _
  case inr.inr.inr.inr.inr.inl => exact Memory.wf_ofBytes _
  all_goals exact hwf

theorem hostWrite_keeps_wf {r : Reg} {w : Word} {s t : State} (hwf : s.fb.wf = true) (h : hostWrite r w s = .next t) :
    t.fb.wf = true := by
  rcases hostWrite_cases h with ⟨e, rfl, -⟩ | ⟨-, rfl⟩ | ⟨-, rfl⟩ | ⟨-, rfl⟩ | ⟨-, i, -, hx⟩ | ⟨-, -, -, rfl⟩ |
    ⟨-, -, rfl⟩ | ⟨-, -, rfl⟩ | ⟨-, rfl⟩ | ⟨-, rfl⟩ | ⟨i, -, -, rfl⟩
  case inr.inr.inr.inr.inl => exact exec_keeps_wf hwf hx
  case inr.inr.inr.inr.inr.inr.inr.inr.inr.inr => exact Memory.wf_write hwf i _
  all_goals exact hwf

theorem access_keeps_wf {p : Ports} {s t : State} (hwf : s.fb.wf = true) (h : access p s = .next t) :
    t.fb.wf = true := by
  rcases access_cases h with ⟨-, rfl⟩ | ⟨-, -, rfl⟩ | ⟨-, -, r, -, rfl⟩ | ⟨-, -, r, -, hw⟩
  case inr.inr.inr => exact hostWrite_keeps_wf hwf hw
  all_goals exact hwf

/-- Settles O55: a write of one byte and a write of the whole buffer are both canonical, and nothing else touches it. -/
theorem stepKeepsFrameBufferCanonical : Obligations.StepKeepsFrameBufferCanonical := by
  unfold Obligations.StepKeepsFrameBufferCanonical
  refine ⟨fun s t i w hwf => hostWrite_keeps_wf hwf, fun s t hwf h => ?_⟩
  rcases step_cases h with ⟨-, rfl⟩ | ⟨-, ha⟩
  · exact Memory.wf_ofBytes _
  · exact access_keeps_wf (by simpa using hwf) ha

end Sys2Proof.Machine

namespace Sys2Proof.Machine

/-! What each command leaves unchanged (40_packet_builder.md sections 2 and 3, 41_transport.md section 2). -/

/-- No command writes an operand, a timing register, or the model's own fields. -/
theorem exec_keeps_registers {i : Instr} {s t : State} (h : exec i s = .next t) :
    t.baudDiv = s.baudDiv ∧ t.brkUs = s.brkUs ∧ t.mabUs = s.mabUs ∧ t.serial = s.serial ∧ t.addr = s.addr ∧
      t.draws = s.draws := by
  rcases exec_cases h with ⟨e, rfl⟩ | ⟨-, rfl⟩ | ⟨-, -, -, -, rfl⟩ | ⟨-, -, -, ⟨-, rfl⟩ | ⟨-, rfl⟩⟩ | ⟨-, -, rfl⟩ |
    ⟨g, -, -, -, -, rfl⟩ | ⟨-, -, -, rfl⟩ <;> exact ⟨rfl, rfl, rfl, rfl, rfl, rfl⟩

/-- Only OPEN writes RTS (41_transport.md R162). -/
theorem exec_rts_or_openPort {i : Instr} {s t : State} (h : exec i s = .next t) : t.rts = s.rts ∨ i = .openPort := by
  rcases exec_cases h with ⟨e, rfl⟩ | ⟨-, rfl⟩ | ⟨hi, -⟩ | ⟨-, -, -, ⟨-, rfl⟩ | ⟨-, rfl⟩⟩ | ⟨-, -, rfl⟩ |
    ⟨g, -, -, -, -, rfl⟩ | ⟨-, -, -, rfl⟩
  case inr.inr.inl => exact .inr hi
  all_goals exact .inl rfl

/-- Only CLOSE writes CLOSING (41_transport.md R163). -/
theorem exec_closing_or_closePort {i : Instr} {s t : State} (h : exec i s = .next t) :
    t.closing = s.closing ∨ i = .closePort := by
  rcases exec_cases h with ⟨e, rfl⟩ | ⟨-, rfl⟩ | ⟨-, -, -, -, rfl⟩ | ⟨hi, -⟩ | ⟨-, -, rfl⟩ |
    ⟨g, -, -, -, -, rfl⟩ | ⟨-, -, -, rfl⟩
  case inr.inr.inr.inl => exact .inr hi
  all_goals exact .inl rfl

/-- Only the builders write the frame buffer (40_packet_builder.md R131, R141). -/
theorem exec_fb_or_builder {i : Instr} {s t : State} (h : exec i s = .next t) :
    t.fb = s.fb ∨ i = .buildProg ∨ ∃ g, i = .buildInd g := by
  rcases exec_cases h with ⟨e, rfl⟩ | ⟨-, rfl⟩ | ⟨-, -, -, -, rfl⟩ | ⟨-, -, -, ⟨-, rfl⟩ | ⟨-, rfl⟩⟩ | ⟨hi, -⟩ |
    ⟨g, hi, -⟩ | ⟨-, -, -, rfl⟩
  case inr.inr.inr.inr.inl => exact .inr (.inl hi)
  case inr.inr.inr.inr.inr.inl => exact .inr (.inr ⟨g, hi⟩)
  all_goals exact .inl rfl

/-- Settles O23: each group of fields by the commands that write it. -/
theorem commandFrames : Obligations.CommandFrames := by
  unfold Obligations.CommandFrames
  intro i s t h
  obtain ⟨hdiv, hbrk, hmab, hserial, haddr, hdraws⟩ := exec_keeps_registers h
  obtain ⟨hqueue, hcnt⟩ := exec_keeps_queue h
  refine ⟨⟨hdiv, hbrk, hmab, hserial, haddr, hcnt, exec_busRdata h, hqueue, hdraws⟩,
    (exec_rts_or_openPort h).resolve_right, fun hsend => ?_, fun hopen hclose => ?_,
    (exec_closing_or_closePort h).resolve_right, fun hprog => ?_, fun hprog hind k => ?_, (exec_err_cases h).symm⟩
  · exact (exec_sequencing_cases h).resolve_right fun ⟨hi, _⟩ => hsend hi
  · rcases exec_openClosing_cases h with ⟨hk, -⟩ | hi | hi
    · exact hk
    · exact absurd hi hopen
    · exact absurd hi hclose
  · exact (exec_checksum_cases h).resolve_right fun ⟨hi, _⟩ => hprog hi
  · rcases exec_fb_or_builder h with hk | hi | ⟨g, hi⟩
    · rw [hk]
    · exact absurd hi hprog
    · exact absurd hi (hind g)

/-- Settles O46: by the register's rule, which raises one error or writes the register's own field. -/
theorem registerWriteFrames : Obligations.RegisterWriteFrames := by
  unfold Obligations.RegisterWriteFrames
  intro r w s t hr h
  rcases hostWrite_cases h with ⟨e, rfl, he⟩ | ⟨rfl, rfl⟩ | ⟨-, rfl⟩ | ⟨rfl, rfl⟩ | ⟨hcmd, -⟩ | ⟨rfl, -, -, rfl⟩ |
    ⟨rfl, -, rfl⟩ | ⟨rfl, -, rfl⟩ | ⟨rfl, rfl⟩ | ⟨rfl, rfl⟩ | ⟨i, rfl, -, rfl⟩
  case inl =>
    rcases he hr with rfl | ⟨rfl, rfl⟩ <;> simp [errMask, errCode]
  case inr.inr.inr.inr.inl => exact absurd hcmd hr
  case inr.inr.inr.inr.inr.inr.inr.inr.inr.inr =>
    simp only [true_and, true_or, implies_true, and_true]
    exact fun j hj => Memory.read_write_other _ _ fun hji => hj (congrArg Reg.frame hji.symm)
  all_goals simp

end Sys2Proof.Machine

namespace Sys2Proof.Machine

/-! Parameters, reset and steps. -/

/-- Settles O1: the parameters are legal by construction, and the tick divisor is the ceiling of R1. -/
theorem buildParametersAreLegal : Obligations.BuildParametersAreLegal := by
  unfold Obligations.BuildParametersAreLegal
  obtain ⟨hf, hdiv1, hdiv2, hus, hlen2, hlen513, hfields, hnodup⟩ := Config.params_legal
  refine ⟨hf, hdiv1, hdiv2, hus, hlen2, hlen513, fun k hk => ?_, hnodup, ?_, rfl⟩
  · obtain ⟨hlo, hhi⟩ := hfields k hk
    exact ⟨hlo, Nat.le_sub_one_of_lt hhi⟩
  · rw [Config.usDiv_eq, Params.usDiv_eq_ceil]

/-- Settles O2: a reset edge leaves an idle serializer, a stopped timer and a buffer written as a whole. -/
theorem resetStateMeetsInvariants : Obligations.ResetStateMeetsInvariants := by
  unfold Obligations.ResetStateMeetsInvariants
  exact ⟨statusInv_afterReset 0 [], timerInv_afterReset 0 [], Memory.wf_ofBytes _⟩

/-- The current cycle's ports are the head of the host's queue. -/
theorem currentPorts_of_queue {s : State} {p : Ports} {rest : List Ports} (hq : s.hostQueue = p :: rest) :
    currentPorts s = p := by
  rw [currentPorts, hq, List.headD_cons]

/-- Settles O4: a reset edge writes the whole buffer from its draw, so each byte reads as drawn. -/
theorem resetDrawsFrameBufferAfresh : Obligations.ResetDrawsFrameBufferAfresh := by
  unfold Obligations.ResetDrawsFrameBufferAfresh
  refine ⟨Memory.read_ofBytes _, Memory.wf_ofBytes _, fun s p rest hq hr => ?_⟩
  have hrst : (currentPorts s).rst = true := by rw [currentPorts_of_queue hq, hr]
  refine ⟨_, step_of_reset hrst, Memory.read_ofBytes _, Memory.wf_ofBytes _, rfl, ?_⟩
  rw [hq]
  rfl

/-- A step whose cycle writes a command's word to CMD is that command on the ticked state. -/
theorem step_of_command {s : State} {w : Word} {i : Instr} (hw : WritesCommand (currentPorts s) w)
    (hd : decode w = .command i) : step s = exec i (tick (nextCycle s)) := by
  rw [step_of_writesCommand hw, command_of_decode hd]

/-- The host's command write is admitted and reaches CMD (20_memory.md R72). -/
theorem writesCommand_commandWrite (w : Word) : WritesCommand (commandWrite w) w := ⟨rfl, rfl, rfl, rfl, rfl, rfl⟩

theorem decode_of_decodeTableWord {nbits w : Nat} {i : Instr} (h : decodeTableWord nbits w = some i) :
    decode (commandWord nbits w) = .command i := by
  unfold decodeTableWord at h
  split at h
  · next j hd => rw [hd, Option.some.inj h]
  · cases h

/-- Settles O8: a step in which CMD is written decodes the word and performs the command on the ticked state. -/
theorem stepPerformsDecodedCommand : Obligations.StepPerformsDecodedCommand := by
  unfold Obligations.StepPerformsDecodedCommand
  refine ⟨fun s p rest w i hq hw hd => ?_, fun s nbits w i hd => ?_⟩
  · have hcycle : nextCycle s = { s with hostQueue := rest, busRdata := 0#32 } := by rw [nextCycle, hq, List.tail_cons]
    rw [step_of_command (currentPorts_of_queue hq ▸ hw) hd, hcycle]
  · exact step_of_command (s := s.withFetchWord nbits w) (writesCommand_commandWrite _) (decode_of_decodeTableWord hd)

/-- Settles O52: every step has a next state, so by induction every run can go on. -/
theorem everyCycleHasNextState : Obligations.EveryCycleHasNextState := by
  unfold Obligations.EveryCycleHasNextState
  refine ⟨step_next, fun k => ?_⟩
  induction k with
  | zero => exact fun s => ⟨s, rfl⟩
  | succ k ih =>
    intro s
    obtain ⟨u, hu⟩ := step_next s
    obtain ⟨t, ht⟩ := ih u
    exact ⟨t, u, hu, ht⟩

/-- Settles O42: both registers are stored and read as they are, and the tick writes neither. -/
theorem serialAndAddrWrites : Obligations.SerialAndAddrWrites := by
  unfold Obligations.SerialAndAddrWrites
  exact ⟨rfl, rfl, fun s w => ⟨tick_serial s, tick_addr s, rfl, rfl, rfl, rfl⟩⟩

/-! The bit rate and the two timers against the clock (42_serializer.md section 3). -/

/-- A microsecond count of ticks lasts at least that many microseconds (42_serializer.md R189). -/
theorem mul_fBaseHz_le {us floor : Nat} (h : floor ≤ us) :
    floor * Config.params.fBaseHz ≤ us * Config.usDiv * 1000000 := by
  rw [Nat.mul_assoc]
  exact Nat.mul_le_mul h Config.le_usDiv_mul

/-- At a multiple of 1 MHz it lasts exactly that long. -/
theorem mul_fBaseHz_eq (hF : Config.params.fBaseHz % 1000000 = 0) (us : Nat) :
    us * Config.usDiv * 1000000 = us * Config.params.fBaseHz := by
  rw [Nat.mul_assoc, Config.usDiv_mul_of_dvd hF]

/-- Settles O31: `US_DIV` ticks cover a microsecond, and the invariants give the two floors. -/
theorem breakAndMabMeetTheirMinima : Obligations.BreakAndMabMeetTheirMinima := by
  unfold Obligations.BreakAndMabMeetTheirMinima
  exact fun s h => ⟨Config.le_usDiv_mul, mul_fBaseHz_le le_rfl, mul_fBaseHz_le h.brk_floor, mul_fBaseHz_le le_rfl,
    mul_fBaseHz_le h.mab_floor, fun hF => ⟨mul_fBaseHz_eq hF _, mul_fBaseHz_eq hF _, mul_fBaseHz_eq hF 200,
      mul_fBaseHz_eq hF 20⟩⟩

/-- Settles O32: the reset divisor is the quotient of F_BASE_HZ by 250000, which falls short of the exact one where there
is a remainder. -/
theorem resetBitRate : Obligations.ResetBitRate := by
  unfold Obligations.ResetBitRate
  intro F rate
  have hdiv : State.reset.baudDiv.toNat = F / 250000 := afterReset_baudDiv_toNat 0 []
  have hq : (0 : ℚ) < ((F / 250000 : Nat) : ℚ) := Nat.cast_pos.2 Config.baudDivRst_pos
  have hrate : rate = (F : ℚ) / ((F / 250000 : Nat) : ℚ) := by simp only [rate, hdiv]
  refine ⟨fun hF => ?_, fun hF => ⟨?_, ?_⟩⟩
  · rw [hrate, div_eq_iff hq.ne']
    exact_mod_cast (Nat.mul_div_cancel' (Nat.dvd_of_mod_eq_zero hF)).symm
  · rw [hrate, lt_div_iff₀ hq]
    exact_mod_cast (by omega : 250000 * (F / 250000) < F)
  · rw [hrate]
    field_simp

end Sys2Proof.Machine

namespace Sys2Proof.Machine

/-! The line, and what a SEND in the last cycle of a frame does (42_serializer.md R185, 70_reset_and_hazards.md section 3). -/

theorem line_of_data {s : State} (h : s.phase = .data) : line s = slotLevel (s.fb.read s.byte) s.bit.val := by
  rw [line, h]

theorem line_of_idle {s : State} (h : s.phase = .idle) : line s = true := by rw [line, h]

theorem line_of_mab {s : State} (h : s.phase = .mab) : line s = true := by rw [line, h]

/-- Positions 1 to 8 of a slot carry the byte, least significant bit first (30_encoding.md R106). -/
theorem slotLevel_data {p : Nat} (h1 : 1 ≤ p) (h8 : p ≤ 8) (b : Byte) : slotLevel b p = b.getLsbD (p - 1) := by
  rw [slotLevel, if_neg (by omega), if_pos h8]

/-- Positions from 9 on are stop bits. -/
theorem slotLevel_stop {p : Nat} (h : 9 ≤ p) (b : Byte) : slotLevel b p = true := by
  rw [slotLevel, if_neg (by omega), if_neg (by omega)]

/-- Settles O26: the level by phase, and in DATA by the position in the slot. -/
theorem lineLevels : Obligations.LineLevels := by
  unfold Obligations.LineLevels
  refine fun s => ⟨line_of_idle, line_of_brk, line_of_mab, fun hp => ?_⟩
  rw [line_of_data hp]
  refine ⟨fun h0 => ?_, fun p h1 h8 hb => ?_, fun h => slotLevel_stop (by omega) _⟩
  · rw [h0]
    rfl
  · rw [hb, slotLevel_data h1 h8]

/-- The last tick of a frame leaves the serializer idle. -/
theorem busy_tick_of_lastCycle {s : State} (h : LastCycle s) : busy (tick s) = false := by
  rw [tick_end h]
  rfl

/-- A step with a SEND from an idle open port starts the break. -/
theorem step_send_accepted {s : State} (hw : WritesCommand (currentPorts s) 0x00000005#32) (hb : busy (tick s) = false)
    (ho : (tick s).isOpen = true) :
    step s = .next (loadSegment .brk (breakCycles s) 0 0 (tick (nextCycle s))) := by
  have hcycles : breakCycles (tick (nextCycle s)) = breakCycles s := by simp [breakCycles]
  rw [step_of_command hw (decode_encode .send), exec_send_accepted (by simpa using hb) (by simpa using ho), hcycles]

/-- Settles O29: the tick has already ended the frame when the SEND is tested. -/
theorem backToBackSendStartsBreakAtOnce : Obligations.BackToBackSendStartsBreakAtOnce := by
  unfold Obligations.BackToBackSendStartsBreakAtOnce
  intro s p rest hq hw hl ho hc
  have hopen : (tick s).isOpen = true := by simp [tick_end hl, ho, hc]
  refine ⟨_, step_send_accepted (currentPorts_of_queue hq ▸ hw) (busy_tick_of_lastCycle hl) hopen, ?_,
    line_of_brk rfl, by simp, rfl, rfl, by simp [tick_frameCnt_of_lastCycle hl]⟩
  obtain ⟨hp, -, hb, -⟩ := hl
  rw [line_of_data hp, hb, slotLevel_stop (by decide)]

/-- Without a SEND an idle serializer stays idle. -/
theorem step_stays_idle {s t : State} (hb : busy (tick s) = false)
    (hno : ¬WritesCommand (currentPorts s) 0x00000005#32) (h : step s = .next t) : busy t = false := by
  by_contra ht
  exact hno (step_starts_frame hb h (by simpa using ht)).1

theorem tick_of_not_busy {s : State} (hb : busy s = false) : tick s = s := tick_idle (busy_eq_false.1 hb)

/-- Where no cycle has a SEND, the current one has none: beyond its end the queue is idle. -/
theorem NoSend.current {s : State} (h : NoSend s.hostQueue) : ¬WritesCommand (currentPorts s) 0x00000005#32 := by
  unfold currentPorts
  cases hq : s.hostQueue with
  | nil => exact fun ⟨_, hreq, _⟩ => Bool.false_ne_true hreq
  | cons p rest => exact h p (by simp [hq])

theorem NoSend.tail {q : List Ports} (h : NoSend q) : NoSend q.tail := fun p hp => h p (List.mem_of_mem_tail hp)

/-- Settles O28: by induction on the cycles, each of which leaves the serializer idle. -/
theorem idleLineStaysAtMark : Obligations.IdleLineStaysAtMark := by
  unfold Obligations.IdleLineStaysAtMark
  intro k s t hb hno hrun
  have hstep (s t : State) (hs : busy s = false ∧ NoSend s.hostQueue) (h : step s = .next t) :
      busy t = false ∧ NoSend t.hostQueue := by
    obtain ⟨hb, hno⟩ := hs
    refine ⟨step_stays_idle (by rwa [tick_of_not_busy hb]) hno.current h, ?_⟩
    rw [step_hostQueue h]
    exact hno.tail
  obtain ⟨hidle, -⟩ := Runs.invariant hstep ⟨hb, hno⟩ hrun
  exact ⟨hidle, line_of_idle (busy_eq_false.1 hidle)⟩

/-- A cycle that reads STATUS presents BUSY of the ticked state (20_memory.md R73). -/
theorem step_status_read {s : State} (hr : (currentPorts s).rst = false) (hq : (currentPorts s).req = true)
    (hw : (currentPorts s).we = false) (ha : admitted (currentPorts s) = some .status) :
    ∃ t, step s = .next t ∧ t.busRdata.getLsbD 1 = busy (tick s) := by
  refine ⟨hostRead .status (tick (nextCycle s)), ?_, ?_⟩
  · rw [step_of_no_reset hr, access_admitted hq ha, hw]
    rfl
  · rw [hostRead_busRdata, readReg_status_busy, busy_tick_nextCycle]

/-- The tick of a break stays busy: the mark-after-break follows (42_serializer.md R182). -/
theorem busy_tick_of_brk {s : State} (hp : s.phase = .brk) : busy (tick s) = true := by
  have hl : ¬LastCycle s := fun ⟨hdata, _⟩ => by simp [hp] at hdata
  obtain ⟨-, -, hb⟩ := tick_port_of_not_lastCycle hl
  rw [hb, busy_eq_true, hp]
  decide

/-- Settles O47: a read of STATUS sees the ticked state: in the break after a SEND, idle at the end of a frame. -/
theorem statusReadLatency : Obligations.StatusReadLatency := by
  unfold Obligations.StatusReadLatency
  refine ⟨fun s p q rest hq hw hb ho hr hreq hwe ha => ?_, fun s p rest hq hr hreq hwe ha hl => ?_⟩
  · have hsend := step_send_accepted (currentPorts_of_queue hq ▸ hw) hb ho
    have hports : currentPorts (loadSegment .brk (breakCycles s) 0 0 (tick (nextCycle s))) = q :=
      currentPorts_of_queue (rest := rest) (by simp [hq])
    obtain ⟨u, hu, hbit⟩ := step_status_read (hports ▸ hr) (hports ▸ hreq) (hports ▸ hwe) (hports ▸ ha)
    exact ⟨u, ⟨_, hsend, u, hu, rfl⟩, hbit.trans (busy_tick_of_brk rfl)⟩
  · obtain rfl := currentPorts_of_queue hq
    obtain ⟨t, ht, hbit⟩ := step_status_read hr hreq hwe ha
    exact ⟨t, ht, hbit.trans (busy_tick_of_lastCycle hl)⟩

/-- A command that has the busy test is refused while busy (30_encoding.md R101). -/
theorem exec_busy {i : Instr} {s : State} (hb : busy s = true) (hnop : i ≠ .nop) (hclose : i ≠ .closePort) :
    exec i s = .next (raise .busy s) := by
  cases i with
  | nop => exact absurd rfl hnop
  | openPort => exact exec_openPort_busy hb
  | closePort => exact absurd rfl hclose
  | buildProg => exact execBuildProg_busy hb
  | buildInd g => exact execBuildInd_busy g hb
  | send => exact exec_send_busy hb

/-- Settles O51: clause by clause, each by the tests of its command or register in their order. -/
theorem errorPriority : Obligations.ErrorPriority := by
  unfold Obligations.ErrorPriority
  refine ⟨fun s p hq ha => access_not_admitted hq ha s, fun s w why hd => command_of_illegal ⟨why, hd⟩ s,
    fun s w i hd hb hnop hclose => (command_of_decode hd s).trans (exec_busy hb hnop hclose),
    fun s => exec_openPort_devOpen, fun s => exec_openPort_baud, fun s => exec_closePort_notOpen,
    fun s => exec_send_notOpen, fun s g => execBuildInd_range g, fun s t hb h => ?_,
    fun s w hb => hostWrite_busy hb (by simp) w, fun s w hb ho => hostWrite_baudDiv_open hb ho w,
    fun s w i hb => ⟨hostWrite_busy hb (by simp) w, hostWrite_busy hb (by simp) w, hostWrite_busy hb (by simp) w⟩,
    fun s => step_of_reset, fun s hr hl => ⟨tick (nextCycle s), ?_, ?_, step_of_no_reset hr⟩⟩
  · cases (execBuildProg_idle hb).symm.trans h
    rfl
  · rw [busy_tick_nextCycle, busy_tick_of_lastCycle hl]
  · rw [tick_nextCycle_frameCnt, tick_frameCnt_of_lastCycle hl]

end Sys2Proof.Machine

namespace Sys2Proof.Machine

/-! Closed forms of the checksum (40_packet_builder.md section 1). -/

/-- The correction term as one floor and one step: above 191 the truncated quotient is a floor, and `s + 320` is
`s - 192 + 512`. -/
theorem correction_eq (s a : Int) :
    correction s a = (if s > 191 then (s + 320) / 256 else 0) + (if a ≥ 255 then 1 else 0) := by
  unfold correction
  congr 1
  by_cases h : 191 < s
  · rw [if_pos h, if_pos h, Int.tdiv_eq_ediv_of_nonneg (by omega)]
    split <;> omega
  · rw [if_neg h, if_neg h]

theorem check1_eq (s a : Int) : check1 s a = mod256 (s + a + 0x46 + correction s a) := by
  simp only [check1, mod256_eq_emod]
  omega

theorem check2_eq (s a : Int) : check2 s a = mod256 (2 * (s + a) + 0xCA + 2 * correction s a) := by
  simp only [check2, mod256_eq_emod]
  omega

/-- Checksum byte 2 is a function of checksum byte 1. -/
theorem check2_eq_of_check1 (s a : Int) : check2 s a = mod256 (2 * check1 s a + 0x3E) := by
  rw [check1_eq, check2_eq]
  simp only [mod256_eq_emod]
  omega

theorem correction_range (serial addr : Word) :
    0 ≤ correction (serialDelta serial) (addrDelta addr) ∧
      correction (serialDelta serial) (addrDelta addr) ≤ 16765186 := by
  obtain ⟨-, hs⟩ := serialDelta_range serial
  rw [correction_eq]
  generalize serialDelta serial = s at hs
  constructor
  · split_ifs <;> omega
  · split_ifs <;> omega

/-- Only the residues of `s + a` and of the correction term matter to the first checksum byte. -/
theorem check1_congr {s a s' a' : Int} (hsum : mod256 (s + a) = mod256 (s' + a'))
    (hcorr : mod256 (correction s a) = mod256 (correction s' a')) : check1 s a = check1 s' a' := by
  rw [check1_eq, check1_eq]
  simp only [mod256_eq_emod] at *
  omega

/-- Settles O12: the closed forms by the arithmetic of residues; the second byte depends on the first alone. -/
theorem checksumClosedForms : Obligations.ChecksumClosedForms := by
  unfold Obligations.ChecksumClosedForms
  refine ⟨fun serial addr => ?_, fun serial addr serial' addr' hsum hcorr => ?_, by decide⟩
  · obtain ⟨hlo, hhi⟩ := correction_range serial addr
    exact ⟨correction_eq _ _, check1_eq _ _, check2_eq _ _, check2_eq_of_check1 _ _, hlo, hhi,
      toNat_checksum1 _ _, toNat_checksum2 _ _⟩
  · have h1 := check1_congr hsum hcorr
    refine ⟨by rw [checksum1, checksum1, h1], ?_⟩
    rw [checksum2, checksum2, check2_eq_of_check1, check2_eq_of_check1, h1]

/-! How many bytes 0xFF an indicator frame holds (95_test_vectors.md V-C). -/

/-- How many of the first `n` bytes of a frame are 0xFF. -/
def fullBytes (f : Nat → Byte) (n : Nat) : Nat := Nat.count (fun i => f i = 0xFF#8) n

theorem fullBytes_setByte_of_le {k n : Nat} (hk : n ≤ k) (v : Byte) (f : Nat → Byte) :
    fullBytes (setByte k v f) n = fullBytes f n := by
  unfold fullBytes
  induction n with
  | zero => rfl
  | succ n ih => rw [Nat.count_succ, Nat.count_succ, ih (Nat.le_of_succ_le hk), setByte_other (Nat.ne_of_lt hk)]

/-- Assigning one of the counted bytes changes the count by that byte alone. -/
theorem fullBytes_setByte {k n : Nat} (hk : k < n) (v : Byte) (f : Nat → Byte) :
    fullBytes (setByte k v f) n + (if f k = 0xFF#8 then 1 else 0) = fullBytes f n + (if v = 0xFF#8 then 1 else 0) := by
  unfold fullBytes
  induction n with
  | zero => cases hk
  | succ n ih =>
    rw [Nat.count_succ, Nat.count_succ]
    rcases Nat.lt_succ_iff_lt_or_eq.1 hk with hlt | rfl
    · rw [setByte_other (Nat.ne_of_gt hlt)]
      have := ih hlt
      omega
    · rw [← fullBytes, ← fullBytes, fullBytes_setByte_of_le le_rfl, setByte_same]
      omega

theorem redFill_full_iff (i : Nat) : redFill i = 0xFF#8 ↔ i % 3 = 1 := by
  unfold redFill
  split
  · next h => simp [h]
  · next h =>
    simp only [BitVec.reduceEq, false_iff]
    omega

/-- The red fill has one full byte in every three. -/
theorem fullBytes_redFill (n : Nat) : fullBytes redFill (3 * n) = n := by
  simp only [fullBytes, redFill_full_iff]
  induction n with
  | zero => rfl
  | succ n ih =>
    have h0 : ¬3 * n % 3 = 1 := by omega
    have h1 : (3 * n + 1) % 3 = 1 := by omega
    have h2 : ¬(3 * n + 1 + 1) % 3 = 1 := by omega
    rw [show 3 * (n + 1) = 3 * n + 1 + 1 + 1 by omega, Nat.count_succ, Nat.count_succ, Nat.count_succ, ih, if_neg h0,
      if_pos h1, if_neg h2]

/-- Of the three bytes of the target block exactly one was red. -/
theorem fullBytes_indicator_dark {a : Nat} (h : a ≤ 509) : fullBytes (indicator a false) 513 = 170 := by
  have hred : fullBytes redFill 513 = 171 := fullBytes_redFill 171
  have h0 := fullBytes_setByte (show a < 513 by omega) 0x00#8 redFill
  have h1 := fullBytes_setByte (show a + 1 < 513 by omega) 0x00#8 (setByte a 0x00#8 redFill)
  have h2 := fullBytes_setByte (show a + 2 < 513 by omega) 0x00#8 (setByte (a + 1) 0x00#8 (setByte a 0x00#8 redFill))
  rw [setByte_other (by omega)] at h1
  rw [setByte_other (by omega), setByte_other (by omega)] at h2
  have hzero : ¬0x00#8 = 0xFF#8 := by decide
  simp only [redFill_full_iff, if_neg hzero] at h0 h1 h2
  have hone : (if a % 3 = 1 then 1 else 0) + (if (a + 1) % 3 = 1 then 1 else 0) +
      (if (a + 2) % 3 = 1 then 1 else 0) = 1 := by split_ifs <;> omega
  show fullBytes (setByte (a + 2) 0x00#8 (setByte (a + 1) 0x00#8 (setByte a 0x00#8 redFill))) 513 = 170
  omega

/-- The flag G adds the green byte, which is dark without it. -/
theorem fullBytes_indicator {a : Nat} (h : a ≤ 509) (g : Bool) :
    fullBytes (indicator a g) 513 = 170 + if g then 1 else 0 := by
  cases g with
  | false => exact fullBytes_indicator_dark h
  | true =>
    have hgreen := fullBytes_setByte (show a + 1 < 513 by omega) 0xFF#8 (indicator a false)
    have htrue : indicator a true = setByte (a + 1) 0xFF#8 (indicator a false) := rfl
    rw [fullBytes_indicator_dark h, indicator_green, ← htrue] at hgreen
    simpa using hgreen

/-- The count over the indices of the buffer is the count over their numbers. -/
theorem countP_finRange_eq_fullBytes (f : Nat → Byte) (n : Nat) :
    (List.finRange n).countP (fun i => f i.val == 0xFF#8) = fullBytes f n := by
  rw [fullBytes, Nat.count, ← List.map_coe_finRange_eq_range, List.countP_map]
  rfl

/-- Settles O17: the buffer is the indicator frame, whose full bytes are counted assignment by assignment. -/
theorem indicatorHas170RedBytesPlusGreen : Obligations.IndicatorHas170RedBytesPlusGreen := by
  unfold Obligations.IndicatorHas170RedBytesPlusGreen
  intro s g hb h1 h509
  refine ⟨_, execBuildInd_accepted g hb h1 h509, ?_⟩
  simp only [putFrame_fb, Memory.read_ofBytes]
  rw [countP_finRange_eq_fullBytes, fullBytes_indicator h509]

/-! Determinism of the builders, and writes made twice. -/

/-- Settles O18: an accepted build writes the whole buffer from the operands, and a refused one raises an error only. -/
theorem buildersIgnoreEarlierBuffer : Obligations.BuildersIgnoreEarlierBuffer := by
  unfold Obligations.BuildersIgnoreEarlierBuffer
  refine ⟨fun s s' t t' hb hb' hserial haddr => ⟨fun h h' => ?_, fun g h1 h509 h h' => ?_⟩, fun s t w why hd h => ?_,
    fun s t hb => ⟨fun h => ?_, fun g h => ?_⟩, fun s t g hr h => ?_⟩
  · cases (execBuildProg_idle hb).symm.trans h
    cases (execBuildProg_idle hb').symm.trans h'
    simp [buildProgFrame, hserial, haddr]
  · cases (execBuildInd_accepted g hb h1 h509).symm.trans h
    cases (execBuildInd_accepted g hb' (haddr ▸ h1) (haddr ▸ h509)).symm.trans h'
    simp [haddr]
  · cases (command_of_illegal ⟨why, hd⟩ s).symm.trans h
    rfl
  · cases (execBuildProg_busy hb).symm.trans h
    rfl
  · cases (execBuildInd_busy g hb).symm.trans h
    rfl
  · cases hb : busy s
    · cases (execBuildInd_range g hb hr).symm.trans h
      rfl
    · cases (execBuildInd_busy g hb).symm.trans h
      rfl

/-- The busy interlock around an idempotent update that keeps BUSY is idempotent: a refused one raises BUSY again. -/
theorem unlessBusy_idem {act : State → State} (hbusy : ∀ s, busy (act s) = busy s) (hact : ∀ s, act (act s) = act s)
    (s : State) : unlessBusy act (unlessBusy act s) = unlessBusy act s := by
  cases hb : busy s
  · rw [unlessBusy_idle hb, unlessBusy_idle ((hbusy s).trans hb), hact]
  · rw [unlessBusy_busy hb, unlessBusy_busy ((busy_raise _ s).trans hb), raise_raise]

/-- Taking out the cell of an index forgets what was put there. -/
theorem Memory.filter_insert (m : Memory) (i : Nat) (v : Byte) :
    (m.insert i v).filter (fun c => decide (c.1 ≠ i)) = m.filter (fun c => decide (c.1 ≠ i)) := by
  induction m with
  | nil => simp [Memory.insert]
  | cons c rest ih =>
    obtain ⟨k, b⟩ := c
    by_cases hik : i < k
    · simp [Memory.insert, hik]
    · simp only [Memory.insert, if_neg hik, List.filter_cons, ih]

/-- A second write of a byte is the only one that counts. -/
theorem Memory.write_write (m : Memory) (i : FrameIndex) (v u : Byte) : (m.write i v).write i u = m.write i u := by
  have hothers : (m.write i v).filter (fun c => decide (c.1 ≠ i.val)) = m.filter (fun c => decide (c.1 ≠ i.val)) := by
    by_cases hv : v = Memory.unlisted
    · simp only [Memory.write, if_pos hv, List.filter_filter, Bool.and_self]
    · simp only [Memory.write, if_neg hv, Memory.filter_insert, List.filter_filter, Bool.and_self]
  rw [Memory.write, hothers, Memory.write]

theorem clearErr_clearErr (m : BitVec 8) (s : State) : clearErr m (clearErr m s) = clearErr m s := by
  simp [clearErr, BitVec.and_assoc]

/-- BAUDDIV refuses or stores the same word again. -/
theorem writeBaudDiv_idem (w : Word) (s : State) : writeBaudDiv w (writeBaudDiv w s) = writeBaudDiv w s := by
  refine unlessBusy_idem (fun s => ?_) (fun s => ?_) s
  · split <;> rfl
  · cases ho : s.isOpen <;> simp [ho, raise_raise]

/-- A write to a register other than CMD, made twice, has the effect of one (20_memory.md R76). -/
theorem hostWrite_idem {r : Reg} {w : Word} {s t : State} (hr : r ≠ .cmd) (h : hostWrite r w s = .next t) :
    hostWrite r w t = .next t := by
  cases r with
  | cmd => exact absurd rfl hr
  | err =>
    cases h
    exact congrArg Host.Outcome.next (clearErr_clearErr _ s)
  | baudDiv =>
    cases h
    exact congrArg Host.Outcome.next (writeBaudDiv_idem w s)
  | brkUs =>
    cases h
    exact congrArg Host.Outcome.next
      (unlessBusy_idem (act := fun s => { s with brkUs := atLeast brkFloor w }) (fun _ => rfl) (fun _ => rfl) s)
  | mabUs =>
    cases h
    exact congrArg Host.Outcome.next
      (unlessBusy_idem (act := fun s => { s with mabUs := atLeast mabFloor w }) (fun _ => rfl) (fun _ => rfl) s)
  | frame i =>
    cases h
    exact congrArg Host.Outcome.next
      (unlessBusy_idem (act := fun s => { s with fb := s.fb.write i (w.extractLsb' 0 8) }) (fun _ => rfl)
        (fun s => by simp only [Memory.write_write]) s)
  | _ =>
    cases h
    rfl

/-- Settles O45: reads by definition, writes register by register; of two SENDs the first starts a break of more than
one cycle, in which the second is refused. -/
theorem writesAreIdempotentButCommandsAreNot : Obligations.WritesAreIdempotentButCommandsAreNot := by
  unfold Obligations.WritesAreIdempotentButCommandsAreNot
  refine ⟨fun r s => rfl, fun r w s t => hostWrite_idem, fun s p q rest hinv hq hp hq5 hb ho => ?_⟩
  have hsend := step_send_accepted (currentPorts_of_queue hq ▸ hp) hb ho
  set t := loadSegment .brk (breakCycles s) 0 0 (tick (nextCycle s)) with ht
  have hports : currentPorts t = q := currentPorts_of_queue (rest := rest) (by simp [ht, hq])
  have hlong : 1 < breakCycles s :=
    Nat.lt_of_lt_of_le (Nat.lt_of_lt_of_le (by decide) hinv.brk_floor) (Nat.le_mul_of_pos_right _ Config.usDiv_pos)
  have htick : tick (nextCycle t) = { nextCycle t with rem := breakCycles s - 1 } :=
    tick_count (s := nextCycle t) (by simp [ht]) hlong
  have hbusy : busy (tick (nextCycle t)) = true := by rw [htick]; rfl
  have hrefused : step t = .next (raise .busy (tick (nextCycle t))) :=
    (step_of_command (hports ▸ hq5) (decode_encode .send)).trans (exec_send_busy hbusy)
  refine ⟨t, _, hsend, rfl, rfl, by simp [ht], hrefused, ?_, ?_, ?_⟩
  · simp [raise, ht, errMask, errCode]
  · rw [raise_phase, htick]
    rfl
  · rw [raise_rem, htick]

end Sys2Proof.Machine

namespace Sys2Proof.Machine

/-! A frame under any host accesses: the run of the block and the bare ticks agree on all that the line depends on
(42_serializer.md section 3). -/

/-- `s` and `t` agree on the sequencing fields, on what they depend on, and on FRAMECNT; OPEN, CLOSING and the registers
that a host may write during a frame can differ. -/
structure SameFrame (s t : State) : Prop where
  phase : t.phase = s.phase
  rem : t.rem = s.rem
  bit : t.bit = s.bit
  byte : t.byte = s.byte
  frameCnt : t.frameCnt = s.frameCnt
  inputs : SameFrameInputs s t

theorem SameFrame.refl (s : State) : SameFrame s s := ⟨rfl, rfl, rfl, rfl, rfl, rfl, rfl, rfl, rfl⟩

theorem SameFrame.trans {s t u : State} (h : SameFrame s t) (h' : SameFrame t u) : SameFrame s u where
  phase := h'.phase.trans h.phase
  rem := h'.rem.trans h.rem
  bit := h'.bit.trans h.bit
  byte := h'.byte.trans h.byte
  frameCnt := h'.frameCnt.trans h.frameCnt
  inputs := ⟨h'.inputs.fb.trans h.inputs.fb, h'.inputs.baudDiv.trans h.inputs.baudDiv,
    h'.inputs.brkUs.trans h.inputs.brkUs, h'.inputs.mabUs.trans h.inputs.mabUs⟩

theorem SameFrame.busy_eq {s t : State} (h : SameFrame s t) : busy t = busy s := by rw [busy, h.phase, busy]

theorem SameFrame.line_eq {s t : State} (h : SameFrame s t) : line t = line s := by
  simp only [line, h.phase, h.byte, h.bit, h.inputs.fb]

/-- What a tick does to a frame depends on nothing else. -/
theorem SameFrame.tick {s t : State} (h : SameFrame s t) : SameFrame (tick s) (tick t) := by
  have hbits : bitCycles t = bitCycles s := by simp only [bitCycles, h.inputs.baudDiv]
  have hmabs : mabCycles t = mabCycles s := by simp only [mabCycles, h.inputs.mabUs]
  obtain ⟨hphase, hrem, hbit, hbyte, hcnt, hfb, hdiv, hbrk, hmab⟩ := id h
  rcases tick_cases s with ⟨hp, hs⟩ | ⟨hp, hr, hs⟩ | ⟨hp, hr, hs⟩ | ⟨hp, hr, hs⟩ | ⟨hb, hp, hr, hs⟩ |
    ⟨hy, hp, hr, hb, hs⟩ | ⟨⟨hp, hr, hb, hy⟩, hs⟩
  · rwa [hs, tick_idle (hphase.trans hp)]
  · rw [hs, tick_count (hphase ▸ hp) (hrem ▸ hr)]
    exact ⟨hphase, congrArg (· - 1) hrem, hbit, hbyte, hcnt, hfb, hdiv, hbrk, hmab⟩
  · rw [hs, tick_brk (hphase.trans hp) (hrem ▸ hr)]
    exact ⟨rfl, hmabs, hbit, hbyte, hcnt, hfb, hdiv, hbrk, hmab⟩
  · rw [hs, tick_mab (hphase.trans hp) (hrem ▸ hr)]
    exact ⟨rfl, hbits, rfl, rfl, hcnt, hfb, hdiv, hbrk, hmab⟩
  · rw [hs, tick_bit (hphase.trans hp) (hrem ▸ hr) (hbit ▸ hb)]
    exact ⟨hphase, hbits, Fin.ext (congrArg (·.val + 1) hbit), hbyte, hcnt, hfb, hdiv, hbrk, hmab⟩
  · rw [hs, tick_slot (hphase.trans hp) (hrem ▸ hr) (hbit ▸ hb) (hbyte ▸ hy)]
    exact ⟨hphase, hbits, rfl, Fin.ext (congrArg (·.val + 1) hbyte), hcnt, hfb, hdiv, hbrk, hmab⟩
  · rw [hs, tick_end ⟨hphase.trans hp, hrem ▸ hr, hbit ▸ hb, hbyte ▸ hy⟩]
    exact ⟨rfl, rfl, rfl, rfl, congrArg (· + 1#32) hcnt, hfb, hdiv, hbrk, hmab⟩

/-- While busy no access touches what a frame depends on: SEND is refused, and so is every write of a frame input. -/
theorem sameFrame_access {p : Ports} {s t : State} (hr : p.rst = false) (hb : busy s = true)
    (h : access p s = .next t) : SameFrame s t := by
  have hcnt := (access_keeps_queue h).2
  have hinputs := access_keeps_frameInputs hb h
  rcases access_sequencing_cases hr h with ⟨hphase, hrem, hbit, hbyte⟩ | ⟨-, hidle, -⟩
  · exact ⟨hphase, hrem, hbit, hbyte, hcnt, hinputs⟩
  · simp [hb] at hidle

theorem sameFrame_nextCycle (s : State) : SameFrame s (nextCycle s) := ⟨rfl, rfl, rfl, rfl, rfl, rfl, rfl, rfl, rfl⟩

/-- A step inside a frame is a tick, as far as the frame goes. -/
theorem sameFrame_step {s t : State} (hr : (currentPorts s).rst = false) (hb : busy (tick s) = true)
    (h : step s = .next t) : SameFrame (tick s) t := by
  rw [step_of_no_reset hr] at h
  exact (sameFrame_nextCycle s).tick.trans (sameFrame_access hr (by simpa using hb) h)

/-- Where no cycle has a reset, the current one has none: beyond its end the queue is idle. -/
theorem NoReset.current {s : State} (h : NoReset s.hostQueue) : (currentPorts s).rst = false := by
  unfold currentPorts
  cases hq : s.hostQueue with
  | nil => rfl
  | cons p rest => exact h p (by simp [hq])

theorem NoReset.drop {q : List Ports} (h : NoReset q) (n : Nat) : NoReset (q.drop n) :=
  fun p hp => h p (List.mem_of_mem_drop hp)

/-- A run inside a frame is its ticks, as far as the frame goes, whatever the host accesses. -/
theorem exists_run_sameFrame {s : State} (hno : NoReset s.hostQueue) (n : Nat) :
    (∀ j, 1 ≤ j → j ≤ n → busy (tick^[j] s) = true) →
      ∃ u, Runs n s u ∧ SameFrame (tick^[n] s) u ∧ u.hostQueue = s.hostQueue.drop n := by
  induction n with
  | zero => exact fun _ => ⟨s, rfl, .refl s, rfl⟩
  | succ n ih =>
    intro hb
    obtain ⟨u, hrun, hsame, hqueue⟩ := ih fun j h1 hj => hb j h1 (Nat.le_succ_of_le hj)
    obtain ⟨t, ht⟩ := step_next u
    have hbu : busy (tick u) = true := by
      rw [hsame.tick.busy_eq, ← Function.iterate_succ_apply' tick]
      exact hb (n + 1) (Nat.le_add_left 1 n) le_rfl
    have hru : (currentPorts u).rst = false := NoReset.current (hqueue ▸ hno.drop n)
    refine ⟨t, hrun.append (Runs.one ht), ?_, ?_⟩
    · rw [Function.iterate_succ_apply']
      exact hsame.tick.trans (sameFrame_step hru hbu ht)
    · rw [step_hostQueue ht, hqueue, List.tail_drop]

/-! The ticks of a whole frame from the first cycle of its break (42_serializer.md R182 to R186). -/

/-- The length of a frame in cycles (42_serializer.md section 3). -/
def frameCycles (s : State) : Nat := breakCycles s + mabCycles s + 5643 * bitCycles s

/-- The state right after an accepted SEND: the break starts, and every timer has at least one cycle. -/
structure FrameStart (s : State) : Prop where
  phase : s.phase = .brk
  rem : s.rem = breakCycles s
  brk_pos : 1 ≤ breakCycles s
  mab_pos : 1 ≤ mabCycles s
  bit_pos : 1 ≤ bitCycles s

/-- The state in the first cycle of the first slot. -/
def dataStart (s : State) : State := { s with phase := .data, byte := 0, bit := 0, rem := bitCycles s }

theorem FrameStart.phase_segments {s : State} (h : FrameStart s) (j : Nat) :
    (j < breakCycles s → (tick^[j] s).phase = .brk) ∧
      (breakCycles s ≤ j → j < breakCycles s + mabCycles s → (tick^[j] s).phase = .mab) := by
  obtain ⟨hseg, -⟩ := tick_iterate_break_mab h.phase (h.rem ▸ h.brk_pos) h.mab_pos
  exact h.rem ▸ hseg j

theorem FrameStart.tick_dataStart {s : State} (h : FrameStart s) :
    tick^[breakCycles s + mabCycles s] s = dataStart s := by
  obtain ⟨-, hdata⟩ := tick_iterate_break_mab h.phase (h.rem ▸ h.brk_pos) h.mab_pos
  exact h.rem ▸ hdata

theorem FrameStart.divisor_ne_zero {s : State} (h : FrameStart s) : s.baudDiv ≠ 0#16 := by
  intro h0
  have hpos := h.bit_pos
  simp [bitCycles, h0] at hpos

/-- Cycle `c` of position `q` of the slot of byte `k` (42_serializer.md R184). -/
theorem FrameStart.tick_position {s : State} (h : FrameStart s) (k : FrameIndex) (q : Fin 11) {c : Nat}
    (hc : c < bitCycles s) :
    tick^[breakCycles s + mabCycles s + ((11 * k.val + q.val) * bitCycles s + c)] s =
      { s with phase := .data, byte := k, bit := q, rem := bitCycles s - c } := by
  obtain ⟨-, hframe⟩ := baudTimerAndFrameEnd
  obtain ⟨hposition, -⟩ := hframe (dataStart s) rfl rfl rfl rfl h.divisor_ne_zero
  rw [Nat.add_comm, Function.iterate_add_apply, h.tick_dataStart]
  exact hposition k q c hc

/-- After its last cycle the frame is counted and the serializer is idle (42_serializer.md R186). -/
theorem FrameStart.tick_frameEnd {s : State} (h : FrameStart s) :
    busy (tick^[frameCycles s] s) = false ∧ (tick^[frameCycles s] s).frameCnt = s.frameCnt + 1#32 := by
  obtain ⟨-, hframe⟩ := baudTimerAndFrameEnd
  obtain ⟨-, hend⟩ := hframe (dataStart s) rfl rfl rfl rfl h.divisor_ne_zero
  have hticks : tick^[frameCycles s] s = tick^[5643 * (dataStart s).baudDiv.toNat] (dataStart s) := by
    rw [frameCycles, Nat.add_comm, Function.iterate_add_apply, h.tick_dataStart]
    rfl
  rw [hticks, hend]
  exact ⟨rfl, rfl⟩

/-- A cycle of the data segment is some cycle of some position of some slot. -/
theorem exists_position {n D : Nat} (h : n < 5643 * D) :
    ∃ (k : FrameIndex) (q : Fin 11) (c : Nat), c < D ∧ n = (11 * k.val + q.val) * D + c := by
  have hD : 0 < D := Nat.pos_of_ne_zero fun h0 => by simp [h0] at h
  have hpos : n / D < 5643 := Nat.div_lt_of_lt_mul (Nat.mul_comm _ _ ▸ h)
  refine ⟨⟨n / D / 11, by omega⟩, ⟨n / D % 11, by omega⟩, n % D, Nat.mod_lt n hD, ?_⟩
  rw [Nat.div_add_mod, Nat.mul_comm, Nat.div_add_mod]

theorem position_lt (k : FrameIndex) (q : Fin 11) {c D : Nat} (hc : c < D) :
    (11 * k.val + q.val) * D + c < 5643 * D :=
  calc (11 * k.val + q.val) * D + c < (11 * k.val + q.val + 1) * D := by
        rw [Nat.succ_mul (11 * k.val + q.val)]
        exact Nat.add_lt_add_left hc _
    _ ≤ 5643 * D := Nat.mul_le_mul_right D (by omega)

/-- The serializer is busy in every cycle of the frame. -/
theorem FrameStart.busy_tick {s : State} (h : FrameStart s) {j : Nat} (hj : j < frameCycles s) :
    busy (tick^[j] s) = true := by
  obtain ⟨hbrk, hmab⟩ := h.phase_segments j
  rw [busy_eq_true]
  rcases Nat.lt_or_ge j (breakCycles s) with hlt | hge
  · simp [hbrk hlt]
  rcases Nat.lt_or_ge j (breakCycles s + mabCycles s) with hlt | hge'
  · simp [hmab hge hlt]
  obtain ⟨n, rfl⟩ := Nat.exists_eq_add_of_le hge'
  obtain ⟨k, q, c, hc, rfl⟩ := exists_position (Nat.lt_of_add_lt_add_left hj)
  simp [h.tick_position k q hc]

/-- FRAMECNT stands still as long as the serializer stays busy. -/
theorem tick_iterate_frameCnt {s : State} {n : Nat} (h : ∀ j ≤ n, busy (tick^[j] s) = true) :
    (tick^[n] s).frameCnt = s.frameCnt := by
  induction n with
  | zero => rfl
  | succ n ih =>
    have hlast : ¬LastCycle (tick^[n] s) := by
      intro hl
      have hb := h (n + 1) le_rfl
      rw [Function.iterate_succ_apply', busy_tick_of_lastCycle hl] at hb
      cases hb
    rw [Function.iterate_succ_apply', tick_frameCnt_of_not_lastCycle hlast, ih fun j hj => h j (Nat.le_succ_of_le hj)]

/-! Cycles after a frame (42_serializer.md R181, R190). -/

/-- With no reset only the tick changes FRAMECNT. -/
theorem step_frameCnt {s t : State} (hr : (currentPorts s).rst = false) (h : step s = .next t) :
    t.frameCnt = (tick s).frameCnt := by
  rw [step_of_no_reset hr] at h
  rw [(access_keeps_queue h).2, tick_nextCycle_frameCnt]

/-- Idle with FRAMECNT at `c`, and neither a SEND nor a reset to come. -/
structure QuietIdle (c : Word) (s : State) : Prop where
  idle : busy s = false
  noSend : NoSend s.hostQueue
  noReset : NoReset s.hostQueue
  frameCnt : s.frameCnt = c

/-- A cycle whose tick leaves the serializer idle, with neither a SEND nor a reset in it or to come. -/
theorem quietIdle_of_step {s t : State} (hb : busy (tick s) = false) (hsend : NoSend s.hostQueue)
    (hreset : NoReset s.hostQueue) (h : step s = .next t) : QuietIdle (tick s).frameCnt t where
  idle := step_stays_idle hb hsend.current h
  noSend := step_hostQueue h ▸ hsend.tail
  noReset := by
    rw [step_hostQueue h, ← List.drop_one]
    exact hreset.drop 1
  frameCnt := step_frameCnt hreset.current h

theorem quietIdle_step {c : Word} {s t : State} (hs : QuietIdle c s) (h : step s = .next t) : QuietIdle c t := by
  have hstep := quietIdle_of_step (by rw [tick_of_not_busy hs.idle, hs.idle]) hs.noSend hs.noReset h
  rwa [tick_of_not_busy hs.idle, hs.frameCnt] at hstep

/-! The waveform of a frame (42_serializer.md section 3). -/

/-- The state that a cycle with an accepted SEND leads to (`step_send_accepted`). -/
def afterSend (s : State) : State := loadSegment .brk (breakCycles s) 0 0 (tick (nextCycle s))

theorem breakCycles_afterSend (s : State) : breakCycles (afterSend s) = breakCycles s := by
  simp [breakCycles, afterSend]

theorem mabCycles_afterSend (s : State) : mabCycles (afterSend s) = mabCycles s := by
  simp [mabCycles, afterSend]

theorem bitCycles_afterSend (s : State) : bitCycles (afterSend s) = bitCycles s := by
  simp [bitCycles, afterSend]

theorem frameCycles_afterSend (s : State) : frameCycles (afterSend s) = frameCycles s := by
  rw [frameCycles, breakCycles_afterSend, mabCycles_afterSend, bitCycles_afterSend, frameCycles]

theorem afterSend_frameCnt (s : State) : (afterSend s).frameCnt = (tick s).frameCnt := by simp [afterSend]

theorem afterSend_fb (s : State) : (afterSend s).fb = s.fb := by simp [afterSend]

theorem afterSend_hostQueue (s : State) : (afterSend s).hostQueue = s.hostQueue.tail := by simp [afterSend]

theorem frameStart_afterSend {s : State} (hinv : StatusInv s) (ho : (tick s).isOpen = true) :
    FrameStart (afterSend s) where
  phase := rfl
  rem := (breakCycles_afterSend s).symm
  brk_pos := breakCycles_afterSend s ▸ hinv.breakCycles_pos
  mab_pos := mabCycles_afterSend s ▸ hinv.mabCycles_pos
  bit_pos := by
    have hpos := (statusInv_tick hinv).bitCycles_pos ho
    rwa [bitCycles, tick_baudDiv, ← bitCycles, ← bitCycles_afterSend] at hpos

section
variable {s : State} (hinv : StatusInv s) (hsend : WritesCommand (currentPorts s) 0x00000005#32)
  (hb : busy (tick s) = false) (ho : (tick s).isOpen = true) (hno : NoReset s.hostQueue.tail)
include hinv hsend hb ho hno

/-- Cycle `j` of the frame that an accepted SEND starts, whatever the host accesses in it. -/
theorem exists_run_frame {j : Nat} (hj : j < frameCycles s) :
    ∃ u, Runs (1 + j) s u ∧ SameFrame (tick^[j] (afterSend s)) u ∧ u.hostQueue = s.hostQueue.tail.drop j := by
  have hbusy (i : Nat) (_ : 1 ≤ i) (hi : i ≤ j) : busy (tick^[i] (afterSend s)) = true :=
    (frameStart_afterSend hinv ho).busy_tick (frameCycles_afterSend s ▸ Nat.lt_of_le_of_lt hi hj)
  obtain ⟨u, hrun, hsame, hqueue⟩ := exists_run_sameFrame (s := afterSend s) (afterSend_hostQueue s ▸ hno) j hbusy
  exact ⟨u, (Runs.one (step_send_accepted hsend hb ho)).append hrun, hsame, afterSend_hostQueue s ▸ hqueue⟩

theorem exists_run_line {j : Nat} (hj : j < frameCycles s) :
    ∃ u, Runs (1 + j) s u ∧ line u = line (tick^[j] (afterSend s)) := by
  obtain ⟨u, hrun, hsame, -⟩ := exists_run_frame hinv hsend hb ho hno hj
  exact ⟨u, hrun, hsame.line_eq⟩

theorem exists_run_break {j : Nat} (hj : j < breakCycles s) : ∃ u, Runs (1 + j) s u ∧ line u = false := by
  obtain ⟨u, hrun, hline⟩ := exists_run_line hinv hsend hb ho hno (j := j) (by unfold frameCycles; omega)
  obtain ⟨hbrk, -⟩ := (frameStart_afterSend hinv ho).phase_segments j
  rw [breakCycles_afterSend] at hbrk
  exact ⟨u, hrun, hline.trans (line_of_brk (hbrk hj))⟩

theorem exists_run_mab {j : Nat} (hj : j < mabCycles s) : ∃ u, Runs (1 + breakCycles s + j) s u ∧ line u = true := by
  obtain ⟨u, hrun, hline⟩ := exists_run_line hinv hsend hb ho hno (j := breakCycles s + j) (by unfold frameCycles; omega)
  obtain ⟨-, hmab⟩ := (frameStart_afterSend hinv ho).phase_segments (breakCycles s + j)
  rw [breakCycles_afterSend, mabCycles_afterSend] at hmab
  refine ⟨u, ?_, hline.trans (line_of_mab (hmab (Nat.le_add_right _ _) (Nat.add_lt_add_left hj _)))⟩
  rwa [Nat.add_assoc]

theorem exists_run_slot (k : FrameIndex) (q : Fin 11) {c : Nat} (hc : c < bitCycles s) :
    ∃ u, Runs (1 + breakCycles s + mabCycles s + (11 * k.val + q.val) * bitCycles s + c) s u ∧
      line u = slotLevel (s.fb.read k) q.val := by
  have hj := Nat.add_lt_add_left (position_lt k q hc) (breakCycles s + mabCycles s)
  obtain ⟨u, hrun, hline⟩ := exists_run_line hinv hsend hb ho hno hj
  have hposition := (frameStart_afterSend hinv ho).tick_position k q (bitCycles_afterSend s ▸ hc)
  rw [breakCycles_afterSend, mabCycles_afterSend, bitCycles_afterSend] at hposition
  refine ⟨u, ?_, ?_⟩
  · rwa [Nat.add_assoc 1, Nat.add_assoc 1, Nat.add_assoc 1, Nat.add_assoc (breakCycles s + mabCycles s)]
  · rw [hline, hposition, line_of_data rfl, afterSend_fb]

theorem exists_run_busy {j : Nat} (hj : j < frameCycles s) :
    ∃ u, Runs (1 + j) s u ∧ busy u = true ∧ u.frameCnt = (tick s).frameCnt := by
  obtain ⟨u, hrun, hsame, -⟩ := exists_run_frame hinv hsend hb ho hno hj
  have hbusy (i : Nat) (hi : i ≤ j) : busy (tick^[i] (afterSend s)) = true :=
    (frameStart_afterSend hinv ho).busy_tick (frameCycles_afterSend s ▸ Nat.lt_of_le_of_lt hi hj)
  refine ⟨u, hrun, hsame.busy_eq.trans (hbusy j le_rfl), ?_⟩
  rw [hsame.frameCnt, tick_iterate_frameCnt hbusy, afterSend_frameCnt]

/-- The cycles after the frame's last one, as long as no SEND is commanded from that one on. -/
theorem exists_run_after_frame (m : Nat) (hquiet : NoSend (s.hostQueue.tail.drop (frameCycles s - 1))) :
    ∃ u, Runs (1 + frameCycles s + m) s u ∧ busy u = false ∧ u.frameCnt = (tick s).frameCnt + 1#32 := by
  have hpos : frameCycles s - 1 + 1 = frameCycles s := by
    have := hinv.breakCycles_pos
    unfold frameCycles
    omega
  have hlast : frameCycles s - 1 < frameCycles s := by omega
  obtain ⟨v, hrun, hsame, hqueue⟩ := exists_run_frame hinv hsend hb ho hno hlast
  have htick : SameFrame (tick^[frameCycles (afterSend s)] (afterSend s)) (tick v) := by
    rw [frameCycles_afterSend, ← hpos, Function.iterate_succ_apply']
    exact hsame.tick
  obtain ⟨hidle, hcnt⟩ := (frameStart_afterSend hinv ho).tick_frameEnd
  obtain ⟨w, hw⟩ := step_next v
  have hwquiet : QuietIdle (tick v).frameCnt w :=
    quietIdle_of_step (htick.busy_eq.trans hidle) (hqueue ▸ hquiet) (hqueue ▸ hno.drop _) hw
  obtain ⟨u, hu⟩ := everyCycleHasNextState.2 m w
  have huquiet : QuietIdle (tick v).frameCnt u := Runs.invariant (fun _ _ => quietIdle_step) hwquiet hu
  refine ⟨u, ?_, huquiet.idle, ?_⟩
  · have hruns := (hrun.append (Runs.one hw)).append hu
    rwa [Nat.add_assoc 1, hpos] at hruns
  · rw [huquiet.frameCnt, htick.frameCnt, hcnt, afterSend_frameCnt]

end

/-- Settles O27: the run agrees with the ticks of the frame cycle by cycle, and from its last cycle on stays idle. -/
theorem frameWaveform : Obligations.FrameWaveform := by
  unfold Obligations.FrameWaveform
  intro s p rest hinv hq hw hb ho hno
  have hsend : WritesCommand (currentPorts s) 0x00000005#32 := currentPorts_of_queue hq ▸ hw
  have htail : s.hostQueue.tail = rest := by rw [hq, List.tail_cons]
  have hno' : NoReset s.hostQueue.tail := htail ▸ hno
  exact ⟨fun _ => exists_run_break hinv hsend hb ho hno', fun _ => exists_run_mab hinv hsend hb ho hno',
    fun k q _ => exists_run_slot hinv hsend hb ho hno' k q, fun _ => exists_run_busy hinv hsend hb ho hno',
    fun m hquiet => exists_run_after_frame hinv hsend hb ho hno' m (htail ▸ hquiet)⟩

end Sys2Proof.Machine
